-- ==== Sys2Proof/Word.lean ====
section
/-! DEFINITION. The 16-bit word of SAYAC and the 4-bit register index (spec/00_scope.md R6, R9;
spec/10_state.md R20). -/

namespace Sys2Proof

/-- A register, memory or IO value, an address, an instruction word: 16 bits, bit 0 the least
significant (R8, R9). -/
abbrev Word := BitVec 16

/-- A register index: every one in an instruction is a 4-bit field (R20). -/
abbrev RegIdx := BitVec 4

end Sys2Proof
end

