-- ==== Sys2Proof/Config.lean ====
section
/-! DEFINITION. What the source leaves open (spec/00_scope.md R7): the types of the parameters a
platform or a run on hardware would settle, and the free values. The values this model gives the
parameters stand in `Sys2Proof/Machine/Settings.lean`. -/

namespace Sys2Proof.Config

/-- `MUL_RD_HALF`: which half of the product MUL and MULS write to rd (R7, decision D33). -/
inductive ProductHalf where
  | low
  | high
  deriving DecidableEq, Repr

/-- `CMI_ORDER`: which operand of CMI and CMIS stands first (R7, decision D34). -/
inductive CmiOrder where
  | immFirst
  | regFirst
  deriving DecidableEq, Repr

/-- `R3_FIELD_ORDER`: what IR[11:8] holds in the three-register format (R7, decision D35). -/
inductive R3FieldOrder where
  | rs2InHigh
  | rs1InHigh
  deriving DecidableEq, Repr

/-- `SHIFT_REG_AMOUNT`: how SLR and SAR read x[rs2][4:0] (R7, decision D19). -/
inductive ShiftRegAmount where
  | signMagnitude
  | twosComplement
  deriving DecidableEq, Repr

/-- A run of consecutive word addresses, both ends included: `MEM_MAP` is a list of these (R7,
decision D5). -/
structure AddressRange where
  first : Nat
  last : Nat
  deriving DecidableEq, Repr

/-- A device of the platform at an IO location (`IO_MAP`; R7, decisions D4, D32). -/
inductive IoDevice where
  /-- It answers every access: a read with some value (spec/20_memory.md R56). -/
  | answering
  /-- It never completes the bus handshake (spec/20_memory.md R62, behaviour U20). -/
  | silent
  deriving DecidableEq, Repr

/-- One entry of `IO_MAP`: a device and the locations it stands at. -/
structure IoMapping where
  locations : AddressRange
  device : IoDevice
  deriving DecidableEq, Repr

/-- What an access to an IO location without a device does (`IO_MAP`; spec/20_memory.md R56, behaviour
U13): any value for a read, or stuck. -/
inductive IoWithoutDevice where
  | anyValue
  | stuck
  deriving DecidableEq, Repr

/-- What a division without a defined result does (`DIV_BY_ZERO`, `DIVS_OVERFLOW`; R7, decisions D17,
D18): it completes with a draw for each destination, or faults (spec/45_mul_div.md R179). -/
inductive OpenDivision where
  | anyValue
  | fault
  deriving DecidableEq, Repr

/-- `MSI_SHADOW`: what opcode 0101 does when R15[14] = 1 (R7, decision D15): refused, or what the source's
page for it says word for word, which is MSI's operation (spec/43_logic_move_shift.md R145). -/
inductive MsiShadow where
  | refused
  | asMsi
  deriving DecidableEq, Repr

/-- `INTERRUPTS`: the interrupt mechanism (R7, decision D23). The spec knows one value, none
(spec/60_exceptions.md R202). -/
inductive Interrupts where
  | absent
  deriving DecidableEq, Repr

/-- A free value: what an instruction writes where the source gives no result (`DIV_BY_ZERO`,
`DIVS_OVERFLOW`; spec/45_mul_div.md R179). The argument is the draw counter of the state, so that
each draw is a fresh value. It has no body: nothing can be proved of it. DESIGN CHOICE: log 8. -/
opaque freeWord (draw : Nat) : Word

/-- A free value: the answer of the device at an IO location when no answer is lined up
(`IO_MAP`; spec/20_memory.md R56). The arguments are the draw counter and the location. It has no
body: nothing can be proved of it. DESIGN CHOICE: log 6. -/
opaque ioAnswer (draw : Nat) (location : Word) : Word

end Sys2Proof.Config
end

