-- ==== Sys2Proof/Machine/Settings.lean ====
section
/-! DEFINITION. The value this model gives each open parameter of spec/00_scope.md R7: the default the
spec chooses, each a definition of its own. -/

namespace Sys2Proof.Machine.Settings

/-- `RESET_PC`, default 0x0000 (R7, spec/10_state.md R40). DESIGN CHOICE, unsafe: log 2. -/
def resetPc : Word := 0x0000#16

/-- `RESET_R15`, default 0x0000 (R7, spec/10_state.md R40). DESIGN CHOICE, unsafe: log 2. -/
def resetR15 : Word := 0x0000#16

/-- `MEM_MAP`, default all 65,536 addresses (R7, spec/20_memory.md R61). DESIGN CHOICE, unsafe:
log 5. -/
def memMap : List Config.AddressRange := [⟨0x0000, 0xFFFF⟩]

/-- `IO_MAP`, default none fixed: no location is listed (R7, spec/20_memory.md R56). It is the value of
`State.ioMap` after reset, and no statement rests on it. DESIGN CHOICE: log 33. -/
def ioMap : List Config.IoMapping := []

/-- What an access to an IO location that `IO_MAP` does not list does: a read is a draw and a write is
recorded (R7, spec/20_memory.md R56, R57). DESIGN CHOICE, unsafe: log 33. -/
def ioWithoutDevice : Config.IoWithoutDevice := .anyValue

/-- `MUL_RD_HALF`, default low (R7, spec/45_mul_div.md R171). DESIGN CHOICE, unsafe: log 11. -/
def mulRdHalf : Config.ProductHalf := .low

/-- `CMI_ORDER`, default immediate first (R7, spec/42_control_flow.md R126). DESIGN CHOICE, unsafe:
log 12. -/
def cmiOrder : Config.CmiOrder := .immFirst

/-- `R3_FIELD_ORDER`, default rs2 in IR[11:8] (R7, spec/30_encoding.md R82). DESIGN CHOICE, unsafe:
log 13. -/
def r3FieldOrder : Config.R3FieldOrder := .rs2InHigh

/-- `SHIFT_REG_AMOUNT`, default sign and magnitude (R7, spec/30_encoding.md R86). DESIGN CHOICE,
unsafe: log 14. -/
def shiftRegAmount : Config.ShiftRegAmount := .signMagnitude

/-- `DIV_BY_ZERO`, default any value (R7, spec/45_mul_div.md R179). DESIGN CHOICE: log 8. -/
def divByZero : Config.OpenDivision := .anyValue

/-- `DIVS_OVERFLOW`, default any value (R7, spec/45_mul_div.md R179). DESIGN CHOICE: log 8. -/
def divsOverflow : Config.OpenDivision := .anyValue

/-- `MSI_SHADOW`, default refused (R7, spec/43_logic_move_shift.md R145). DESIGN CHOICE, safe: log 9. -/
def msiShadow : Config.MsiShadow := .refused

/-- `INTERRUPTS`, none (R7, spec/60_exceptions.md R202). DESIGN CHOICE, unsafe: log 23. -/
def interrupts : Config.Interrupts := .absent

/-- `STRICT_UNUSED_BITS`, default false: a 1 in an unused bit is ignored (R7, spec/30_encoding.md
R94). DESIGN CHOICE, unsafe: log 16. -/
def strictUnusedBits : Bool := false

end Sys2Proof.Machine.Settings
end

