-- ==== Sys2Proof/Machine/Operands.lean ====
section
/-! DEFINITION. Operand forms and the values instructions compute: extension of immediates
(spec/00_scope.md R10, spec/30_encoding.md R85), shift amounts and shifts (R86,
spec/43_logic_move_shift.md R150), complements, products and quotients. -/

namespace Sys2Proof.Machine

/-! ### Immediates -/

/-- `sext_16(v)`: bits above the field copy its top bit (R10). -/
def sext16 {n : Nat} (v : BitVec n) : Word := v.signExtend 16

/-- `zext_16(v)`: bits above the field are 0 (R10). -/
def zext16 {n : Nat} (v : BitVec n) : Word := v.setWidth 16

/-- MHI's result: bits 15:8 replaced, bits 7:0 kept (spec/43_logic_move_shift.md R146). -/
def replaceHigh (imm8 : BitVec 8) (v : Word) : Word := imm8 ++ v.extractLsb' 0 8

/-! ### Shifts -/

/-- A shift: its direction and how many places. -/
inductive ShiftAmount where
  | left (n : Nat)
  | right (n : Nat)
  deriving DecidableEq, Repr

/-- Logical or arithmetic. -/
inductive ShiftKind where
  | logical
  | arithmetic
  deriving DecidableEq, Repr

/-- A five-bit sign-and-magnitude amount: bit 4 is the sign, 1 for left (minus) and 0 for right (plus),
bits 3:0 the magnitude (R86; log 14). -/
def signMagnitudeAmount (a : BitVec 5) : ShiftAmount :=
  if a.getLsbD 4 then .left (a.extractLsb' 0 4).toNat else .right (a.extractLsb' 0 4).toNat

/-- A five-bit two's-complement amount: negative shifts left, positive right (`SHIFT_REG_AMOUNT`, the
alternative of R86; log 14). -/
def twosComplementAmount (a : BitVec 5) : ShiftAmount :=
  if a.toInt < 0 then .left a.toInt.natAbs else .right a.toInt.natAbs

/-- The amount of SLR and SAR: x[rs2][4:0], bits 15:5 ignored (spec/43_logic_move_shift.md R148). -/
def registerShiftAmount (v : Word) : ShiftAmount :=
  match Settings.shiftRegAmount with
  | .signMagnitude => signMagnitudeAmount (v.extractLsb' 0 5)
  | .twosComplement => twosComplementAmount (v.extractLsb' 0 5)

/-- The shift function of SLR, SAR and SHI (R150; log 15). -/
def shift (v : Word) (a : ShiftAmount) (k : ShiftKind) : Word :=
  match a, k with
  | .left n, _ => v <<< n
  | .right n, .logical => v >>> n
  | .right n, .arithmetic => v.sshiftRight n

/-! ### Complements -/

/-- The one's complement: every bit inverted (spec/46_shi_not.md R192). -/
def onesComplement (v : Word) : Word := ~~~v

/-- The two's complement: the one's complement plus one, modulo 2^16 (R192). -/
def twosComplement (v : Word) : Word := ~~~v + 1

/-! ### Products -/

/-- The exact unsigned product as 32 bits (spec/45_mul_div.md R171). -/
def unsignedProduct (a b : Word) : BitVec 32 := BitVec.ofNat 32 (a.toNat * b.toNat)

/-- The exact signed product as 32 bits (spec/45_mul_div.md R172). -/
def signedProduct (a b : Word) : BitVec 32 := BitVec.ofInt 32 (a.toInt * b.toInt)

/-- p[15:0], 'LSB. -/
def lowHalf (p : BitVec 32) : Word := p.extractLsb' 0 16

/-- p[31:16], 'MSB. -/
def highHalf (p : BitVec 32) : Word := p.extractLsb' 16 16

/-- What x[rd] and x[rd+1] receive of a product, by `MUL_RD_HALF` (R171; log 11). -/
def productPair (p : BitVec 32) : Word × Word :=
  match Settings.mulRdHalf with
  | .low => (lowHalf p, highHalf p)
  | .high => (highHalf p, lowHalf p)

/-! ### Quotients -/

/-- What a division comes to: a quotient and a remainder, or one of the two cases in which R179 gives no
result. -/
inductive Division where
  | result (quotient remainder : Word)
  | byZero
  | overflow
  deriving DecidableEq, Repr

/-- The unsigned quotient and remainder (spec/45_mul_div.md R175, R179 (a)). -/
def unsignedDivide (a b : Word) : Division :=
  if b = 0#16 then .byZero
  else .result (BitVec.ofNat 16 (a.toNat / b.toNat)) (BitVec.ofNat 16 (a.toNat % b.toNat))

/-- The signed quotient, rounded toward zero, and the remainder `a - q * b`; -32768 / -1 overflows
(spec/45_mul_div.md R176, R179; log 21). -/
def signedDivide (a b : Word) : Division :=
  if b = 0#16 then .byZero
  else if a.toInt = -32768 ∧ b.toInt = -1 then .overflow
  else
    let q := Int.tdiv a.toInt b.toInt
    .result (BitVec.ofInt 16 q) (BitVec.ofInt 16 (a.toInt - q * b.toInt))

end Sys2Proof.Machine
end

