-- ==== Sys2Proof/Machine/Flags.lean ====
section
/-! DEFINITION. R15, the only control and status register (spec/10_state.md R23 to R28): its shadow
bits, the flags G and E, what a compare writes, and the branch conditions over G and E
(spec/30_encoding.md R87). Every function here is about a value of R15. -/

namespace Sys2Proof.Machine

/-- The shadow bit `sh(b)`: R15[b] (spec/00_scope.md R11, spec/10_state.md R25). -/
def shadowBit (r15 : Word) (b : Nat) : Bool := r15.getLsbD b

/-- SH_IMR, R15[15]: ANI, ADI, SUI act as ANIR, ADIR, SUIR (R23). -/
def shImr (r15 : Word) : Bool := shadowBit r15 15

/-- SH_MSI, R15[14]: opcode 0101 is the MSI shadow (R23). -/
def shMsi (r15 : Word) : Bool := shadowBit r15 14

/-- SH_MULL, R15[13]: MUL acts as MULL (R23). -/
def shMull (r15 : Word) : Bool := shadowBit r15 13

/-- SH_SGN, R15[12]: MUL and DIV act as MULS and DIVS (R23). -/
def shSgn (r15 : Word) : Bool := shadowBit r15 12

/-- SH_DIVQ, R15[11]: DIV acts as DIVQ (R23). -/
def shDivq (r15 : Word) : Bool := shadowBit r15 11

/-- SH_CMPS, R15[10]: CMR and CMI act as CMRS and CMIS (R23). -/
def shCmps (r15 : Word) : Bool := shadowBit r15 10

/-- The greater flag G, R15[5] (R26). -/
def flagG (r15 : Word) : Bool := r15.getLsbD 5

/-- The equal flag E, R15[4] (R26). -/
def flagE (r15 : Word) : Bool := r15.getLsbD 4

/-- R15 after a compare that finds `greater` and `equal`: G and E are both written, R15[15:6] and
R15[3:0] are kept (spec/42_control_flow.md R128). -/
def withCompareFlags (r15 : Word) (greater equal : Bool) : Word :=
  r15.extractLsb' 6 10 ++ BitVec.ofBool greater ++ BitVec.ofBool equal ++ r15.extractLsb' 0 4

/-- R15 after a compare of `a` (first) with `b` (second), both read as unsigned (R124, R128). -/
def compareUnsigned (r15 a b : Word) : Word :=
  withCompareFlags r15 (decide (b.toNat < a.toNat)) (decide (a = b))

/-- R15 after a compare of `a` (first) with `b` (second), both read as signed (R125, R128). -/
def compareSigned (r15 a b : Word) : Word :=
  withCompareFlags r15 (decide (b.toInt < a.toInt)) (decide (a.toInt = b.toInt))

/-- The six branch conditions, by the spec's names (spec/30_encoding.md R87). -/
inductive Cond where
  | eq
  | lt
  | gt
  | ge
  | le
  | ne
  deriving DecidableEq, Repr

/-- The condition that FIB[2:0] selects: none for the reserved codes 110 and 111; FIB[4:3] are
ignored (R87, R93). -/
def condOfFib (fib : BitVec 5) : Option Cond :=
  match (fib.extractLsb' 0 3).toNat with
  | 0 => some .eq
  | 1 => some .lt
  | 2 => some .gt
  | 3 => some .ge
  | 4 => some .le
  | 5 => some .ne
  | _ => none

/-- Whether a condition holds over the stored flags, as R87's right-hand column says, for every G and
E (G = E = 1 included: R129, log 18). -/
def condHolds (r15 : Word) : Cond → Bool
  | .eq => flagE r15
  | .lt => !flagG r15 && !flagE r15
  | .gt => flagG r15
  | .ge => flagG r15 || flagE r15
  | .le => (!flagG r15 && !flagE r15) || flagE r15
  | .ne => !flagE r15

end Sys2Proof.Machine
end

