-- ==== Sys2Proof/Syntax.lean ====
section
/-! DEFINITION. The instructions: one constructor for each of the 41 rows of spec/opcode_table.json, in
the table's order, with the operands in the order of the source's assembler syntax (spec/30_encoding.md
R97). A bit of an instruction word that R94 calls unused is no operand. -/

namespace Sys2Proof

/-- A SAYAC instruction. A shadow instruction has a constructor of its own: it shares its words with
its base instruction, and R15 decides which of the two a word spells (spec/30_encoding.md R95). -/
inductive Instr where
  /-- RESERVED_0000: any word of opcode 0000 (R93). -/
  | reserved0000
  /-- RESERVED_0001: any word of opcode 0001 (R93). -/
  | reserved0001
  /-- LDR (R110). -/
  | ldr (rd rs1 : RegIdx)
  /-- LDRio (R111). -/
  | ldrIo (rd rs1 : RegIdx)
  /-- STR (R112): rd is the address register. -/
  | str (rd rs1 : RegIdx)
  /-- STRio (R113): rd holds the IO location. -/
  | strIo (rd rs1 : RegIdx)
  /-- JMR[s=0] (R120): the rd field is carried and has no effect. -/
  | jmrS0 (rd rs1 : RegIdx)
  /-- JMR[s=1] (R120): rd is the link register. -/
  | jmrS1 (rd rs1 : RegIdx)
  /-- JMI (R121). -/
  | jmi (rd : RegIdx) (imm6 : BitVec 6)
  /-- ANR (R140). -/
  | anr (rd rs1 rs2 : RegIdx)
  /-- ANI (R141). -/
  | ani (rd : RegIdx) (imm8 : BitVec 8)
  /-- ANIR (R142), the shadow of ANI. -/
  | anir (rd rs1 : RegIdx) (imm4 : BitVec 4)
  /-- MSI (R144). -/
  | msi (rd : RegIdx) (imm8 : BitVec 8)
  /-- MSI-SHADOW (R145), the shadow of MSI. -/
  | msiShadow (rd : RegIdx) (imm8 : BitVec 8)
  /-- MHI (R146). -/
  | mhi (rd : RegIdx) (imm8 : BitVec 8)
  /-- SLR (R148). -/
  | slr (rd rs1 rs2 : RegIdx)
  /-- SAR (R149). -/
  | sar (rd rs1 rs2 : RegIdx)
  /-- ADR (R160). -/
  | adr (rd rs1 rs2 : RegIdx)
  /-- SUR (R161). -/
  | sur (rd rs1 rs2 : RegIdx)
  /-- ADI (R162). -/
  | adi (rd : RegIdx) (imm8 : BitVec 8)
  /-- ADIR (R163), the shadow of ADI. -/
  | adir (rd rs1 : RegIdx) (imm4 : BitVec 4)
  /-- SUI (R164). -/
  | sui (rd : RegIdx) (imm8 : BitVec 8)
  /-- SUIR (R165), the shadow of SUI. -/
  | suir (rd rs1 : RegIdx) (imm4 : BitVec 4)
  /-- MUL (R171). -/
  | mul (rd rs1 rs2 : RegIdx)
  /-- MULS (R172), a shadow of MUL. -/
  | muls (rd rs1 rs2 : RegIdx)
  /-- MULL (R173), a shadow of MUL. -/
  | mull (rd rs1 rs2 : RegIdx)
  /-- DIV (R175). -/
  | div (rd rs1 rs2 : RegIdx)
  /-- DIVS (R176), a shadow of DIV. -/
  | divs (rd rs1 rs2 : RegIdx)
  /-- DIVQ (R177), a shadow of DIV. -/
  | divq (rd rs1 rs2 : RegIdx)
  /-- CMR (R124): rs1 is the first operand, rd the second. -/
  | cmr (rs1 rd : RegIdx)
  /-- CMRS (R125), the shadow of CMR. -/
  | cmrs (rs1 rd : RegIdx)
  /-- CMI (R126). -/
  | cmi (imm5 : BitVec 5) (rd : RegIdx)
  /-- CMIS (R127), the shadow of CMI. -/
  | cmis (imm5 : BitVec 5) (rd : RegIdx)
  /-- BRC (R122): rd holds the absolute target. -/
  | brc (fib : BitVec 5) (rd : RegIdx)
  /-- BRR (R123): rd holds the offset. -/
  | brr (fib : BitVec 5) (rd : RegIdx)
  /-- SHI[LA=0] (R190), logical. -/
  | shiLogical (rd : RegIdx) (shim : BitVec 5)
  /-- SHI[LA=1] (R190), arithmetic. -/
  | shiArith (rd : RegIdx) (shim : BitVec 5)
  /-- NTR[c=0] (R192), one's complement. -/
  | ntrOnes (rd rs1 : RegIdx)
  /-- NTR[c=1] (R192), two's complement. -/
  | ntrTwos (rd rs1 : RegIdx)
  /-- NTD[c=0] (R193), one's complement in place. -/
  | ntdOnes (rd : RegIdx)
  /-- NTD[c=1] (R193), two's complement in place. -/
  | ntdTwos (rd : RegIdx)
  deriving DecidableEq, Repr

end Sys2Proof
end

