-- ==== Sys2Proof/WellFormed.lean ====
section
/-! DEFINITION. Which terms of `Instr` are instructions the spec gives an encoding and a meaning to
(spec/30_encoding.md R93, R94). The widths of the operands are in their types. -/

namespace Sys2Proof

/-- The opcode is not one of the two reserved ones (R93 (a)). -/
def Instr.opcodeDefined : Instr → Bool
  | .reserved0000 => false
  | .reserved0001 => false
  | _ => true

/-- A branch names one of the six conditions of R87, not a reserved code (R93 (b)). -/
def Instr.conditionDefined : Instr → Bool
  | .brc fib _ => (Machine.condOfFib fib).isSome
  | .brr fib _ => (Machine.condOfFib fib).isSome
  | _ => true

/-- The operand bits that R94 calls ignored are 0: the rd field of JMR with s = 0 and FIB[4:3] of a
branch. Asked for only under `STRICT_UNUSED_BITS`. -/
def Instr.ignoredFieldsZero : Instr → Bool
  | .jmrS0 rd _ => rd == 0
  | .brc fib _ => fib.extractLsb' 3 2 == 0
  | .brr fib _ => fib.extractLsb' 3 2 == 0
  | _ => true

/-- A well-formed instruction: its opcode and its condition are defined, and under
`STRICT_UNUSED_BITS` its ignored fields are 0. -/
def Instr.wellFormed (i : Instr) : Bool :=
  i.opcodeDefined && i.conditionDefined &&
    (!Machine.Settings.strictUnusedBits || i.ignoredFieldsZero)

end Sys2Proof
end

