-- ==== Sys2Proof/Decode.lean ====
section
/-! DEFINITION. Decoding and encoding (spec/30_encoding.md R80 to R95). Every instruction is one 16-bit
word. R15 decides between a base instruction and its shadows (R95), so the decoder reads the value R15
has before the instruction begins (spec/10_state.md R25); the encoder needs none, since a shadow
instruction has its base instruction's word. -/

namespace Sys2Proof

/-- Why a word is refused before it is executed. -/
inductive DecodeError where
  /-- A 1 stands in an unused bit of the word, under `STRICT_UNUSED_BITS` only (R94). Safe. -/
  | unusedBits (w : Word)
  deriving DecidableEq, Repr

/-! ### The fields of a word (R81, R82, R83) -/

/-- The opcode IR[15:12] (R81). -/
def opcodeOf (w : Word) : BitVec 4 := w.extractLsb' 12 4

/-- The opcode extension IR[11:10] of opcodes 0010 and 1111 (R81). -/
def extOf (w : Word) : BitVec 2 := w.extractLsb' 10 2

/-- The destination field IR[3:0] (R82). -/
def rdOf (w : Word) : RegIdx := w.extractLsb' 0 4

/-- The first source field of the two-register formats, IR[7:4] (R82). -/
def rs1Of (w : Word) : RegIdx := w.extractLsb' 4 4

/-- The first source field of the three-register format, by `R3_FIELD_ORDER` (R82). -/
def r3Rs1Of (w : Word) : RegIdx :=
  match Machine.Settings.r3FieldOrder with
  | .rs2InHigh => w.extractLsb' 4 4
  | .rs1InHigh => w.extractLsb' 8 4

/-- The second source field of the three-register format, by `R3_FIELD_ORDER` (R82). -/
def r3Rs2Of (w : Word) : RegIdx :=
  match Machine.Settings.r3FieldOrder with
  | .rs2InHigh => w.extractLsb' 8 4
  | .rs1InHigh => w.extractLsb' 4 4

/-- imm8 = IR[11:4] (R83). -/
def imm8Of (w : Word) : BitVec 8 := w.extractLsb' 4 8

/-- imm4 = IR[11:8] of the shadow formats (R83). -/
def imm4Of (w : Word) : BitVec 4 := w.extractLsb' 8 4

/-- imm6 = IR[9:4] of JMI (R83). -/
def imm6Of (w : Word) : BitVec 6 := w.extractLsb' 4 6

/-- The five bits IR[8:4]: imm5, FIB or shim (R83). -/
def v5Of (w : Word) : BitVec 5 := w.extractLsb' 4 5

/-! ### Decoding -/

/-- Opcode 0010: IR[11:10], then the Memory/IO bit or s = IR[9] (R91 (4)). -/
def decodeTransferOrJump (w : Word) : Instr :=
  match (extOf w).toNat with
  | 0 => if w.getLsbD 9 then .ldrIo (rdOf w) (rs1Of w) else .ldr (rdOf w) (rs1Of w)
  | 1 => if w.getLsbD 9 then .strIo (rdOf w) (rs1Of w) else .str (rdOf w) (rs1Of w)
  | 2 => if w.getLsbD 9 then .jmrS1 (rdOf w) (rs1Of w) else .jmrS0 (rdOf w) (rs1Of w)
  | _ => .jmi (rdOf w) (imm6Of w)

/-- Opcode 1111: IR[11:10], then IR[9], and IR[8] for NTR and NTD (R91 (5)); the compares also look at
the shadow bit SH_CMPS (R95). -/
def decodeExtended (r15 w : Word) : Instr :=
  match (extOf w).toNat with
  | 0 =>
    if w.getLsbD 9 then
      if Machine.shCmps r15 then .cmis (v5Of w) (rdOf w) else .cmi (v5Of w) (rdOf w)
    else
      if Machine.shCmps r15 then .cmrs (rs1Of w) (rdOf w) else .cmr (rs1Of w) (rdOf w)
  | 1 => if w.getLsbD 9 then .brr (v5Of w) (rdOf w) else .brc (v5Of w) (rdOf w)
  | 2 => if w.getLsbD 9 then .shiArith (rdOf w) (v5Of w) else .shiLogical (rdOf w) (v5Of w)
  | _ =>
    if w.getLsbD 9 then
      if w.getLsbD 8 then .ntdTwos (rdOf w) else .ntdOnes (rdOf w)
    else
      if w.getLsbD 8 then .ntrTwos (rdOf w) (rs1Of w) else .ntrOnes (rdOf w) (rs1Of w)

/-- The row of the opcode map that a word spells when R15 holds `r15`: every word spells exactly one
(R90, R91, R95). Unused bits are dropped (R94). -/
def decodeRow (r15 w : Word) : Instr :=
  match (opcodeOf w).toNat with
  | 0 => .reserved0000
  | 1 => .reserved0001
  | 2 => decodeTransferOrJump w
  | 3 => .anr (rdOf w) (r3Rs1Of w) (r3Rs2Of w)
  | 4 =>
    if Machine.shImr r15 then .anir (rdOf w) (rs1Of w) (imm4Of w) else .ani (rdOf w) (imm8Of w)
  | 5 => if Machine.shMsi r15 then .msiShadow (rdOf w) (imm8Of w) else .msi (rdOf w) (imm8Of w)
  | 6 => .mhi (rdOf w) (imm8Of w)
  | 7 => .slr (rdOf w) (r3Rs1Of w) (r3Rs2Of w)
  | 8 => .sar (rdOf w) (r3Rs1Of w) (r3Rs2Of w)
  | 9 => .adr (rdOf w) (r3Rs1Of w) (r3Rs2Of w)
  | 10 => .sur (rdOf w) (r3Rs1Of w) (r3Rs2Of w)
  | 11 =>
    if Machine.shImr r15 then .adir (rdOf w) (rs1Of w) (imm4Of w) else .adi (rdOf w) (imm8Of w)
  | 12 =>
    if Machine.shImr r15 then .suir (rdOf w) (rs1Of w) (imm4Of w) else .sui (rdOf w) (imm8Of w)
  | 13 =>
    if Machine.shMull r15 then .mull (rdOf w) (r3Rs1Of w) (r3Rs2Of w)
    else if Machine.shSgn r15 then .muls (rdOf w) (r3Rs1Of w) (r3Rs2Of w)
    else .mul (rdOf w) (r3Rs1Of w) (r3Rs2Of w)
  | 14 =>
    if Machine.shDivq r15 then .divq (rdOf w) (r3Rs1Of w) (r3Rs2Of w)
    else if Machine.shSgn r15 then .divs (rdOf w) (r3Rs1Of w) (r3Rs2Of w)
    else .div (rdOf w) (r3Rs1Of w) (r3Rs2Of w)
  | _ => decodeExtended r15 w

/-- The bits of a row's words that stand for no operand of its constructor: the table's "unused" bits,
less FIB[4:3], which are part of the FIB operand (R94). -/
def Instr.unusedBits : Instr → Word
  | .reserved0000 => 0x0FFF#16
  | .reserved0001 => 0x0FFF#16
  | .ldr _ _ => 0x0100#16
  | .ldrIo _ _ => 0x0100#16
  | .str _ _ => 0x0100#16
  | .strIo _ _ => 0x0100#16
  | .jmrS0 _ _ => 0x0100#16
  | .jmrS1 _ _ => 0x0100#16
  | .cmr _ _ => 0x0100#16
  | .cmrs _ _ => 0x0100#16
  | .ntdOnes _ => 0x00F0#16
  | .ntdTwos _ => 0x00F0#16
  | _ => 0x0000#16

/-- Whether `STRICT_UNUSED_BITS` refuses the word `w` of the instruction `i`: an unused bit or an
ignored field of a defined opcode is not 0 (R94). -/
def strictRefuses (i : Instr) (w : Word) : Bool :=
  i.opcodeDefined && (w &&& i.unusedBits != 0 || !i.ignoredFieldsZero)

/-- The decoder: the instruction that the word `w` spells when R15 holds `r15`. It answers for every
word; it refuses, by name, only under `STRICT_UNUSED_BITS`. -/
def decode (r15 w : Word) : Except DecodeError Instr :=
  if Machine.Settings.strictUnusedBits && strictRefuses (decodeRow r15 w) w then
    .error (.unusedBits w)
  else .ok (decodeRow r15 w)

/-- The instruction read from the table's numbering of an instruction's bits: the low `nbits` of `w`
are the word, and R15 holds its value after reset (a shadow row's word spells its base row there:
log 25). None if the bits do not fit one word or the decoder refuses. -/
def decodeTableWord (nbits w : Nat) : Option Instr :=
  let v := w % 2 ^ nbits
  if v < 2 ^ 16 then (decode Machine.Settings.resetR15 (BitVec.ofNat 16 v)).toOption else none

/-! ### Which R15 selects a row -/

/-- The table's "when" condition of an instruction's row, over the value R15 has before it executes
(R95; spec/10_state.md R25). -/
def Instr.selectedBy (r15 : Word) : Instr → Bool
  | .ani _ _ => !Machine.shImr r15
  | .anir _ _ _ => Machine.shImr r15
  | .msi _ _ => !Machine.shMsi r15
  | .msiShadow _ _ => Machine.shMsi r15
  | .adi _ _ => !Machine.shImr r15
  | .adir _ _ _ => Machine.shImr r15
  | .sui _ _ => !Machine.shImr r15
  | .suir _ _ _ => Machine.shImr r15
  | .mul _ _ _ => !Machine.shMull r15 && !Machine.shSgn r15
  | .muls _ _ _ => !Machine.shMull r15 && Machine.shSgn r15
  | .mull _ _ _ => Machine.shMull r15
  | .div _ _ _ => !Machine.shSgn r15 && !Machine.shDivq r15
  | .divs _ _ _ => Machine.shSgn r15 && !Machine.shDivq r15
  | .divq _ _ _ => Machine.shDivq r15
  | .cmr _ _ => !Machine.shCmps r15
  | .cmrs _ _ => Machine.shCmps r15
  | .cmi _ _ => !Machine.shCmps r15
  | .cmis _ _ => Machine.shCmps r15
  | _ => true

/-! ### Encoding -/

/-- Format R3: opcode, the two source fields by `R3_FIELD_ORDER`, rd (R82, R83). -/
def encodeR3 (op : BitVec 4) (rd rs1 rs2 : RegIdx) : Word :=
  match Machine.Settings.r3FieldOrder with
  | .rs2InHigh => op ++ rs2 ++ rs1 ++ rd
  | .rs1InHigh => op ++ rs1 ++ rs2 ++ rd

/-- Format I8: opcode, imm8, rd (R83). -/
def encodeI8 (op : BitVec 4) (rd : RegIdx) (imm8 : BitVec 8) : Word := op ++ imm8 ++ rd

/-- Format RI4: opcode, imm4, rs1, rd (R83). -/
def encodeRI4 (op : BitVec 4) (rd rs1 : RegIdx) (imm4 : BitVec 4) : Word := op ++ imm4 ++ rs1 ++ rd

/-- Formats X2 and X2c: the eight bits IR[15:8], rs1, rd (R83); an unused IR[8] is written 0. -/
def encodeX2 (top : BitVec 8) (rd rs1 : RegIdx) : Word := top ++ rs1 ++ rd

/-- Format I5: the seven bits IR[15:9], the five bits IR[8:4], rd (R83). -/
def encodeI5 (top : BitVec 7) (rd : RegIdx) (v5 : BitVec 5) : Word := top ++ v5 ++ rd

/-- Format J6: the six bits IR[15:10], imm6, rd (R83). -/
def encodeJ6 (top : BitVec 6) (rd : RegIdx) (imm6 : BitVec 6) : Word := top ++ imm6 ++ rd

/-- The word of an instruction, every unused bit 0 (R90, R94). -/
def encode : Instr → Word
  | .reserved0000 => 0x0000#16
  | .reserved0001 => 0x1000#16
  | .ldr rd rs1 => encodeX2 0b00100000#8 rd rs1
  | .ldrIo rd rs1 => encodeX2 0b00100010#8 rd rs1
  | .str rd rs1 => encodeX2 0b00100100#8 rd rs1
  | .strIo rd rs1 => encodeX2 0b00100110#8 rd rs1
  | .jmrS0 rd rs1 => encodeX2 0b00101000#8 rd rs1
  | .jmrS1 rd rs1 => encodeX2 0b00101010#8 rd rs1
  | .jmi rd imm6 => encodeJ6 0b001011#6 rd imm6
  | .anr rd rs1 rs2 => encodeR3 0b0011#4 rd rs1 rs2
  | .ani rd imm8 => encodeI8 0b0100#4 rd imm8
  | .anir rd rs1 imm4 => encodeRI4 0b0100#4 rd rs1 imm4
  | .msi rd imm8 => encodeI8 0b0101#4 rd imm8
  | .msiShadow rd imm8 => encodeI8 0b0101#4 rd imm8
  | .mhi rd imm8 => encodeI8 0b0110#4 rd imm8
  | .slr rd rs1 rs2 => encodeR3 0b0111#4 rd rs1 rs2
  | .sar rd rs1 rs2 => encodeR3 0b1000#4 rd rs1 rs2
  | .adr rd rs1 rs2 => encodeR3 0b1001#4 rd rs1 rs2
  | .sur rd rs1 rs2 => encodeR3 0b1010#4 rd rs1 rs2
  | .adi rd imm8 => encodeI8 0b1011#4 rd imm8
  | .adir rd rs1 imm4 => encodeRI4 0b1011#4 rd rs1 imm4
  | .sui rd imm8 => encodeI8 0b1100#4 rd imm8
  | .suir rd rs1 imm4 => encodeRI4 0b1100#4 rd rs1 imm4
  | .mul rd rs1 rs2 => encodeR3 0b1101#4 rd rs1 rs2
  | .muls rd rs1 rs2 => encodeR3 0b1101#4 rd rs1 rs2
  | .mull rd rs1 rs2 => encodeR3 0b1101#4 rd rs1 rs2
  | .div rd rs1 rs2 => encodeR3 0b1110#4 rd rs1 rs2
  | .divs rd rs1 rs2 => encodeR3 0b1110#4 rd rs1 rs2
  | .divq rd rs1 rs2 => encodeR3 0b1110#4 rd rs1 rs2
  | .cmr rs1 rd => encodeX2 0b11110000#8 rd rs1
  | .cmrs rs1 rd => encodeX2 0b11110000#8 rd rs1
  | .cmi imm5 rd => encodeI5 0b1111001#7 rd imm5
  | .cmis imm5 rd => encodeI5 0b1111001#7 rd imm5
  | .brc fib rd => encodeI5 0b1111010#7 rd fib
  | .brr fib rd => encodeI5 0b1111011#7 rd fib
  | .shiLogical rd shim => encodeI5 0b1111100#7 rd shim
  | .shiArith rd shim => encodeI5 0b1111101#7 rd shim
  | .ntrOnes rd rs1 => encodeX2 0b11111100#8 rd rs1
  | .ntrTwos rd rs1 => encodeX2 0b11111101#8 rd rs1
  | .ntdOnes rd => encodeX2 0b11111110#8 rd 0#4
  | .ntdTwos rd => encodeX2 0b11111111#8 rd 0#4

/-! ### The rows of the opcode table -/

/-- The mask of an instruction's row in spec/opcode_table.json: 1 where the word is fixed. -/
def Instr.rowMask : Instr → Word
  | .ldr _ _ | .ldrIo _ _ | .str _ _ | .strIo _ _ | .jmrS0 _ _ | .jmrS1 _ _ => 0xFE00#16
  | .jmi _ _ => 0xFC00#16
  | .cmr _ _ | .cmrs _ _ | .cmi _ _ | .cmis _ _ | .brc _ _ | .brr _ _ => 0xFE00#16
  | .shiLogical _ _ | .shiArith _ _ => 0xFE00#16
  | .ntrOnes _ _ | .ntrTwos _ _ | .ntdOnes _ | .ntdTwos _ => 0xFF00#16
  | _ => 0xF000#16

/-- The match of an instruction's row in spec/opcode_table.json: the fixed bits' values. -/
def Instr.rowMatch : Instr → Word
  | .reserved0000 => 0x0000#16
  | .reserved0001 => 0x1000#16
  | .ldr _ _ => 0x2000#16
  | .ldrIo _ _ => 0x2200#16
  | .str _ _ => 0x2400#16
  | .strIo _ _ => 0x2600#16
  | .jmrS0 _ _ => 0x2800#16
  | .jmrS1 _ _ => 0x2A00#16
  | .jmi _ _ => 0x2C00#16
  | .anr _ _ _ => 0x3000#16
  | .ani _ _ | .anir _ _ _ => 0x4000#16
  | .msi _ _ | .msiShadow _ _ => 0x5000#16
  | .mhi _ _ => 0x6000#16
  | .slr _ _ _ => 0x7000#16
  | .sar _ _ _ => 0x8000#16
  | .adr _ _ _ => 0x9000#16
  | .sur _ _ _ => 0xA000#16
  | .adi _ _ | .adir _ _ _ => 0xB000#16
  | .sui _ _ | .suir _ _ _ => 0xC000#16
  | .mul _ _ _ | .muls _ _ _ | .mull _ _ _ => 0xD000#16
  | .div _ _ _ | .divs _ _ _ | .divq _ _ _ => 0xE000#16
  | .cmr _ _ | .cmrs _ _ => 0xF000#16
  | .cmi _ _ | .cmis _ _ => 0xF200#16
  | .brc _ _ => 0xF400#16
  | .brr _ _ => 0xF600#16
  | .shiLogical _ _ => 0xF800#16
  | .shiArith _ _ => 0xFA00#16
  | .ntrOnes _ _ => 0xFC00#16
  | .ntrTwos _ _ => 0xFD00#16
  | .ntdOnes _ => 0xFE00#16
  | .ntdTwos _ => 0xFF00#16

end Sys2Proof
end

