-- ==== Sys2Proof/Machine/State.lean ====
section
/-! DEFINITION. The state of the machine (spec/10_state.md), what stops a step, and the state after
reset. -/

namespace Sys2Proof.Machine

/-- The memory space: (word address, word) pairs in one canonical form, addresses strictly rising and
below 2^16. A location that is not listed has no value (spec/20_memory.md R50, R52). The unit is the
16-bit word, the smallest that SAYAC addresses or moves (R58, R59): log 4. -/
abbrev Memory := List (Nat × Word)

/-- One access to the IO space (spec/20_memory.md R56, R57). -/
inductive IoEvent where
  /-- LDRio read `value` from `location`. -/
  | read (location value : Word)
  /-- STRio wrote `value` to `location`. -/
  | write (location value : Word)
  deriving DecidableEq, Repr

/-- The whole state. R0 is a constant and is not stored (spec/10_state.md R21). -/
structure State where
  /-- R1 to R14, R1 first (R22). -/
  gpr : Vector Word 14
  /-- R15: shadow bits [15:8], flags [7:4], status bits [3:0] (R23). -/
  r15 : Word
  /-- The program counter: the address of the instruction being executed (R30). -/
  pc : Word
  /-- The memory space (R35 (a)). -/
  mem : Memory
  /-- The IO accesses made so far, oldest first (spec/20_memory.md R56, R57). -/
  ioLog : List IoEvent
  /-- The MODEL's field: the answers lined up for coming IO reads, the next one first (log 6). -/
  ioIn : List Word
  /-- The MODEL's field: `IO_MAP`, the devices of the platform; no instruction changes it (log 33). -/
  ioMap : List Config.IoMapping
  /-- The MODEL's field: the index of the next free value (log 8). -/
  draws : Nat
  deriving DecidableEq, Repr

/-- The model-level fault of spec/60_exceptions.md R200, with the pc of the instruction. None is an
architectural trap; each stops the machine before the instruction has written anything, which is safe:
the model says nothing of what the chip does there. -/
inductive Fault where
  /-- The word fetched has opcode 0000 or 0001: raised by the two reserved rows
  (spec/30_encoding.md R93 (a)). Safe. -/
  | reservedOpcode (pc : Word)
  /-- FIB[2:0] is 110 or 111: raised by BRC and BRR (spec/30_encoding.md R93 (b)). Safe. -/
  | reservedCondition (pc : Word)
  /-- The address is outside `MEM_MAP`: raised by a fetch, LDR and STR (spec/20_memory.md R52, R53,
  R61). Not reached with the default `MEM_MAP`. Safe. -/
  | unmappedMemory (pc address : Word)
  /-- The location has never been given a value: raised by a fetch and LDR (spec/20_memory.md R52).
  Safe. -/
  | unwrittenMemory (pc address : Word)
  /-- The device at the IO location never answers: the core hangs, the spec's stuck state, raised by LDRio
  and STRio (spec/20_memory.md R62; log 26, log 33). Safe. -/
  | ioUnanswered (pc location : Word)
  /-- The divisor is 0 and `DIV_BY_ZERO` is fault: raised by DIV, DIVS, DIVQ (spec/45_mul_div.md R179 (a)).
  Not reached with the default setting. Safe. -/
  | divideByZero (pc : Word)
  /-- -32768 / -1 and `DIVS_OVERFLOW` is fault: raised by DIVS and DIVQ (spec/45_mul_div.md R179 (b)). Not
  reached with the default setting. Safe. -/
  | divideOverflow (pc : Word)
  deriving DecidableEq, Repr

/-- Why the model gives an instruction no meaning. -/
inductive Refusal where
  /-- The instruction has no meaning in this model yet: raised by no arm of `exec`. Safe. -/
  | notModelled (mnemonic : String)
  /-- `unspecified(msi_shadow)`: raised by MSI-SHADOW, whose meaning is lost from the source
  (spec/43_logic_move_shift.md R145). Safe. -/
  | msiShadow
  /-- The word has a 1 in an unused bit, under `STRICT_UNUSED_BITS`: raised by the decoder through the
  step (spec/30_encoding.md R94). Not reached with the default setting. Safe. -/
  | unusedBits (word : Word)
  deriving DecidableEq, Repr

/-- What executing an instruction answers. -/
abbrev Result := Host.Outcome State Fault Refusal

/-- The machine right after reset (spec/10_state.md R40; spec/70_reset_and_hazards.md R230): pc and R15
as `RESET_PC` and `RESET_R15` say (log 2), memory without a value anywhere (log 3). R1 to R14 hold 0,
where the spec gives no value (DESIGN CHOICE, unsafe: log 1); no IO access has been made, no answer is
lined up, no device is listed and no value has been drawn (log 6, log 7, log 8, log 33). -/
def State.reset : State where
  gpr := Vector.replicate 14 0
  r15 := Settings.resetR15
  pc := Settings.resetPc
  mem := []
  ioLog := []
  ioIn := []
  ioMap := Settings.ioMap
  draws := 0

end Sys2Proof.Machine
end

