-- ==== Sys2Proof/Machine/Ops.lean ====
section
/-! DEFINITION. The named operations over registers, memory and IO that every meaning is written with
(the primitives of spec/00_scope.md R11), how an instruction ends, and the fetch. SAYAC takes no
exception and returns from none (spec/60_exceptions.md R200, R205, R206): `raise` is the one way a
meaning faults. -/

namespace Sys2Proof.Machine

/-! ### Registers -/

/-- `x[i]`: 0 for R0, all 16 bits of R15 for R15, else Ri (R11; spec/10_state.md R21, R24). -/
def State.reg (s : State) (i : RegIdx) : Word :=
  if i.toNat = 0 then 0
  else if h : i.toNat - 1 < 14 then s.gpr[i.toNat - 1]
  else s.r15

/-- `x[i] <- v`: no effect for R0, the whole of R15 for R15, else Ri (R11; spec/10_state.md R21, R24). -/
def State.setReg (s : State) (i : RegIdx) (v : Word) : State :=
  if i.toNat = 0 then s
  else if h : i.toNat - 1 < 14 then { s with gpr := s.gpr.set (i.toNat - 1) v }
  else { s with r15 := v }

/-- `pc <- t` (R11). -/
def State.setPc (s : State) (t : Word) : State := { s with pc := t }

/-- The implicit write of R15 by a compare (spec/10_state.md R28). -/
def State.setR15 (s : State) (v : Word) : State := { s with r15 := v }

/-- The address of the next instruction, `pc + 1` modulo 2^16 (spec/10_state.md R31, R32). -/
def State.nextPc (s : State) : Word := s.pc + 1

/-- The index of the second destination, `(rd + 1) mod 16` (spec/45_mul_div.md R170; log 20). -/
def secondReg (rd : RegIdx) : RegIdx := rd + 1

/-! ### Memory -/

/-- The word at an address, none where nothing is listed (spec/20_memory.md R52). -/
def Memory.read : Memory → Nat → Option Word
  | [], _ => none
  | (b, v) :: rest, a => if b = a then some v else Memory.read rest a

/-- The memory after the whole word at `a` is replaced by `v` (spec/20_memory.md R53); it keeps the
addresses rising. -/
def Memory.write : Memory → Nat → Word → Memory
  | [], a, v => [(a, v)]
  | (b, w) :: rest, a, v =>
    if a < b then (a, v) :: (b, w) :: rest
    else if a = b then (a, v) :: rest
    else (b, w) :: Memory.write rest a v

/-- Every listed address is above `low`, and they rise strictly and stay below 2^16. -/
def Memory.wfFrom : Nat → Memory → Bool
  | _, [] => true
  | low, (b, _) :: rest => decide (low ≤ b) && decide (b < 2 ^ 16) && Memory.wfFrom (b + 1) rest

/-- The canonical form: addresses strictly rising, all in the address space (spec/20_memory.md R50). -/
def Memory.wf (m : Memory) : Bool := Memory.wfFrom 0 m

/-- Whether an address is in `MEM_MAP` (spec/20_memory.md R61; log 5). -/
def memMapped (a : Word) : Bool :=
  Settings.memMap.any fun r => decide (r.first ≤ a.toNat) && decide (a.toNat ≤ r.last)

/-- The word at the address `a`, none where it has no value. -/
def State.wordAt (s : State) (a : Word) : Option Word := s.mem.read a.toNat

/-- `MemRead(a, 16)`: the word last stored at `a` or placed there by the launch; a fault outside
`MEM_MAP` or where the location has no value (spec/20_memory.md R52; log 3). -/
def State.memRead (s : State) (a : Word) : Except Fault Word :=
  if memMapped a then
    match s.wordAt a with
    | some v => .ok v
    | none => .error (.unwrittenMemory s.pc a)
  else .error (.unmappedMemory s.pc a)

/-- The state with the word `v` at `a` in memory. -/
def State.putWord (s : State) (a v : Word) : State := { s with mem := s.mem.write a.toNat v }

/-- `MemWrite(a, 16, v)`: a fault outside `MEM_MAP` (spec/20_memory.md R53). -/
def State.memWrite (s : State) (a v : Word) : Except Fault State :=
  if memMapped a then .ok (s.putWord a v) else .error (.unmappedMemory s.pc a)

/-! ### IO and free values -/

/-- The device that `IO_MAP` lists at a location, none where it lists none (spec/00_scope.md R7). -/
def State.ioDeviceAt (s : State) (a : Word) : Option Config.IoDevice :=
  (s.ioMap.find? fun m =>
    decide (m.locations.first ≤ a.toNat) && decide (a.toNat ≤ m.locations.last)).map
      Config.IoMapping.device

/-- Whether an access to an IO location is answered: by a device that answers, or, DESIGN CHOICE of the
model, at a location without a device under `IoWithoutDevice.anyValue` (spec/20_memory.md R56, R62;
log 33). -/
def State.ioAnswered (s : State) (a : Word) : Bool :=
  match s.ioDeviceAt a with
  | some .answering => true
  | some .silent => false
  | none =>
    match Settings.ioWithoutDevice with
    | .anyValue => true
    | .stuck => false

/-- The value an answered IO read returns, and the state after it: the next lined-up answer, or a free
value when none is lined up; it is recorded with the location (spec/20_memory.md R56; log 6, log 7). -/
def State.ioReceive (s : State) (a : Word) : Word × State :=
  match s.ioIn with
  | v :: rest => (v, { s with ioIn := rest, ioLog := s.ioLog ++ [.read a v] })
  | [] =>
    let v := Config.ioAnswer s.draws a
    (v, { s with draws := s.draws + 1, ioLog := s.ioLog ++ [.read a v] })

/-- The state after an answered IO write: the event is recorded in program order (spec/20_memory.md R57;
log 7). -/
def State.ioSend (s : State) (a v : Word) : State :=
  { s with ioLog := s.ioLog ++ [.write a v] }

/-- `IORead(a, 16)`: the answer, or the hang of an access that is never answered, which is never a skipped
access (spec/20_memory.md R56, R62; log 26, log 33). -/
def State.ioRead (s : State) (a : Word) : Except Fault (Word × State) :=
  if s.ioAnswered a then .ok (s.ioReceive a) else .error (.ioUnanswered s.pc a)

/-- `IOWrite(a, 16, v)`: recorded, or the hang of an access that is never answered. That a write to a
location without a device completes and is recorded is a DESIGN CHOICE: the spec leaves it to `IO_MAP`
(spec/20_memory.md R57, R62, behaviour U13; log 33). -/
def State.ioWrite (s : State) (a v : Word) : Except Fault State :=
  if s.ioAnswered a then .ok (s.ioSend a v) else .error (.ioUnanswered s.pc a)

/-- A draw: a 16-bit value that nothing constrains, and the state with the draw counted
(spec/45_mul_div.md R179; log 8). -/
def State.draw (s : State) : Word × State :=
  (Config.freeWord s.draws, { s with draws := s.draws + 1 })

/-! ### How an instruction ends -/

/-- `raise Fault(reason)`: the machine stops and the instruction writes nothing
(spec/60_exceptions.md R200; log 23). -/
def raise (f : Fault) : Result := .fault f

/-- The instruction has made its writes in `s`; control goes to `t`. -/
def finishAt (t : Word) (s : State) : Result := .next (s.setPc t)

/-- The instruction has made its writes in `s`, which still holds its own pc; then `pc <- pc + 1`
(spec/10_state.md R31). -/
def finish (s : State) : Result := finishAt s.nextPc s

/-- `x[rd] <- v; pc <- pc + 1`. -/
def finishWith (rd : RegIdx) (v : Word) (s : State) : Result := finish (s.setReg rd v)

/-- `x[rd] <- v; x[rd+1] <- w; pc <- pc + 1` (spec/45_mul_div.md R170). -/
def finishWithPair (rd : RegIdx) (v w : Word) (s : State) : Result :=
  finish ((s.setReg rd v).setReg (secondReg rd) w)

/-- `x[rd]` and `x[rd+1]` receive a free value each; `pc <- pc + 1` (spec/45_mul_div.md R179; log 8). -/
def finishWithDrawnPair (rd : RegIdx) (s : State) : Result :=
  let first := s.draw
  let second := first.2.draw
  finishWithPair rd first.1 second.1 second.2

/-- `x[rd]` receives a free value; `pc <- pc + 1` (spec/45_mul_div.md R179; log 8). -/
def finishWithDrawn (rd : RegIdx) (s : State) : Result :=
  let drawn := s.draw
  finishWith rd drawn.1 drawn.2

/-- What a division without a defined result ends in: the completion with draws, or the fault, by its
setting (spec/45_mul_div.md R179; log 8). -/
def openDivision (setting : Config.OpenDivision) (drawn : Result) (f : Fault) : Result :=
  match setting with
  | .anyValue => drawn
  | .fault => raise f

/-- The end of a division that writes both results (spec/45_mul_div.md R175, R176, R179). -/
def finishDivide (rd : RegIdx) (d : Division) (s : State) : Result :=
  match d with
  | .result q r => finishWithPair rd q r s
  | .byZero => openDivision Settings.divByZero (finishWithDrawnPair rd s) (.divideByZero s.pc)
  | .overflow => openDivision Settings.divsOverflow (finishWithDrawnPair rd s) (.divideOverflow s.pc)

/-- The end of a division that writes the quotient alone (spec/45_mul_div.md R177, R179). -/
def finishQuotient (rd : RegIdx) (d : Division) (s : State) : Result :=
  match d with
  | .result q _ => finishWith rd q s
  | .byZero => openDivision Settings.divByZero (finishWithDrawn rd s) (.divideByZero s.pc)
  | .overflow => openDivision Settings.divsOverflow (finishWithDrawn rd s) (.divideOverflow s.pc)

/-! ### Fetch -/

/-- `IR <- MemRead(pc, 16)` (spec/20_memory.md R54). -/
def State.fetch (s : State) : Except Fault Word := s.memRead s.pc

/-- The stop for a word the decoder refuses (`STRICT_UNUSED_BITS`; log 16). -/
def refuseWord : DecodeError → Result
  | .unusedBits w => .refused (.unusedBits w)

/-- The state with the low `nbits` of `w` in the word that is fetched next. -/
def State.placeWord (s : State) (nbits w : Nat) : State :=
  s.putWord s.pc (BitVec.ofNat 16 (w % 2 ^ nbits))

end Sys2Proof.Machine
end

