-- ==== Sys2Proof/Machine/AddSub.lean ====
section
/-! DEFINITION. ADR, SUR, ADI, ADIR, SUI, SUIR (spec/44_add_sub.md R160 to R166): modulo 2^16, no flag. -/

namespace Sys2Proof.Machine

/-- ADR (R160). -/
def execAdr (rd rs1 rs2 : RegIdx) (s : State) : Result := finishWith rd (s.reg rs1 + s.reg rs2) s

/-- SUR (R161): rs1 is the minuend. -/
def execSur (rd rs1 rs2 : RegIdx) (s : State) : Result := finishWith rd (s.reg rs1 - s.reg rs2) s

/-- ADI (R162). -/
def execAdi (rd : RegIdx) (imm8 : BitVec 8) (s : State) : Result :=
  finishWith rd (s.reg rd + sext16 imm8) s

/-- ADIR (R163). -/
def execAdir (rd rs1 : RegIdx) (imm4 : BitVec 4) (s : State) : Result :=
  finishWith rd (s.reg rs1 + sext16 imm4) s

/-- SUI (R164). -/
def execSui (rd : RegIdx) (imm8 : BitVec 8) (s : State) : Result :=
  finishWith rd (s.reg rd - sext16 imm8) s

/-- SUIR (R165). -/
def execSuir (rd rs1 : RegIdx) (imm4 : BitVec 4) (s : State) : Result :=
  finishWith rd (s.reg rs1 - sext16 imm4) s

end Sys2Proof.Machine
end

