-- ==== Sys2Proof/Machine/Compare.lean ====
section
/-! DEFINITION. CMR, CMRS, CMI, CMIS (spec/42_control_flow.md R124 to R128): each writes G and E in R15 and
nothing else but pc. -/

namespace Sys2Proof.Machine

/-- The first and second operand of CMI and CMIS, by `CMI_ORDER` (R126; log 12). -/
def cmiOperands (imm5 : BitVec 5) (v : Word) : Word × Word :=
  match Settings.cmiOrder with
  | .immFirst => (sext16 imm5, v)
  | .regFirst => (v, sext16 imm5)

/-- CMR (R124): x[rs1] with x[rd], unsigned. -/
def execCmr (rs1 rd : RegIdx) (s : State) : Result :=
  finish (s.setR15 (compareUnsigned s.r15 (s.reg rs1) (s.reg rd)))

/-- CMRS (R125): x[rs1] with x[rd], signed. -/
def execCmrs (rs1 rd : RegIdx) (s : State) : Result :=
  finish (s.setR15 (compareSigned s.r15 (s.reg rs1) (s.reg rd)))

/-- CMI (R126): the sign-extended immediate with x[rd], unsigned. -/
def execCmi (imm5 : BitVec 5) (rd : RegIdx) (s : State) : Result :=
  let operands := cmiOperands imm5 (s.reg rd)
  finish (s.setR15 (compareUnsigned s.r15 operands.1 operands.2))

/-- CMIS (R127): the sign-extended immediate with x[rd], signed. -/
def execCmis (imm5 : BitVec 5) (rd : RegIdx) (s : State) : Result :=
  let operands := cmiOperands imm5 (s.reg rd)
  finish (s.setR15 (compareSigned s.r15 operands.1 operands.2))

end Sys2Proof.Machine
end

