-- ==== Sys2Proof/Machine/ControlFlow.lean ====
section
/-! DEFINITION. JMR, JMI, BRC, BRR (spec/42_control_flow.md R120 to R123, R129, R130). `pc` is the address
of the instruction itself (spec/10_state.md R30) and every sum is modulo 2^16 (R32). -/

namespace Sys2Proof.Machine

/-- JMR with s = 0 (R120): no link, rd has no effect. -/
def execJmrS0 (_rd rs1 : RegIdx) (s : State) : Result := finishAt (s.pc + s.reg rs1) s

/-- JMR with s = 1 (R120): the offset is read before the link is written. -/
def execJmrS1 (rd rs1 : RegIdx) (s : State) : Result :=
  finishAt (s.pc + s.reg rs1) (s.setReg rd s.nextPc)

/-- JMI (R121). -/
def execJmi (rd : RegIdx) (imm6 : BitVec 6) (s : State) : Result :=
  finishAt (s.pc + sext16 imm6) (s.setReg rd s.nextPc)

/-- A branch on `fib` to `target`: a reserved condition faults, a condition that does not hold falls
through (R122, R123, R129; spec/30_encoding.md R87, R93 (b); log 10, log 18). -/
def branchTo (fib : BitVec 5) (target : Word) (s : State) : Result :=
  match condOfFib fib with
  | none => raise (.reservedCondition s.pc)
  | some c => if condHolds s.r15 c then finishAt target s else finish s

/-- BRC (R122): the target is absolute. -/
def execBrc (fib : BitVec 5) (rd : RegIdx) (s : State) : Result := branchTo fib (s.reg rd) s

/-- BRR (R123): the target is relative to pc. -/
def execBrr (fib : BitVec 5) (rd : RegIdx) (s : State) : Result := branchTo fib (s.pc + s.reg rd) s

end Sys2Proof.Machine
end

