-- ==== Sys2Proof/Machine/DataTransfer.lean ====
section
/-! DEFINITION. LDR, LDRio, STR, STRio (spec/41_data_transfer.md R110 to R114). The effective address is
the whole address register: x[rs1] for loads, x[rd] for stores (R114). -/

namespace Sys2Proof.Machine

/-- LDR (R110): the read is made for rd = R0 too, and its value discarded (log 30). -/
def execLdr (rd rs1 : RegIdx) (s : State) : Result :=
  match s.memRead (s.reg rs1) with
  | .ok v => finishWith rd v s
  | .error f => raise f

/-- LDRio (R111): the IO read is made and recorded for rd = R0 too (log 30); a location that never answers
hangs (log 33). -/
def execLdrIo (rd rs1 : RegIdx) (s : State) : Result :=
  match s.ioRead (s.reg rs1) with
  | .ok answer => finishWith rd answer.1 answer.2
  | .error f => raise f

/-- STR (R112). -/
def execStr (rd rs1 : RegIdx) (s : State) : Result :=
  match s.memWrite (s.reg rd) (s.reg rs1) with
  | .ok t => finish t
  | .error f => raise f

/-- STRio (R113): a location that never answers hangs, one without a device is written (log 33). -/
def execStrIo (rd rs1 : RegIdx) (s : State) : Result :=
  match s.ioWrite (s.reg rd) (s.reg rs1) with
  | .ok t => finish t
  | .error f => raise f

end Sys2Proof.Machine
end

