-- ==== Sys2Proof/Machine/LogicMoveShift.lean ====
section
/-! DEFINITION. ANR, ANI, ANIR, MSI, the MSI shadow, MHI, SLR, SAR (spec/43_logic_move_shift.md R140 to
R150). -/

namespace Sys2Proof.Machine

/-- ANR (R140). -/
def execAnr (rd rs1 rs2 : RegIdx) (s : State) : Result := finishWith rd (s.reg rs1 &&& s.reg rs2) s

/-- ANI (R141). -/
def execAni (rd : RegIdx) (imm8 : BitVec 8) (s : State) : Result :=
  finishWith rd (s.reg rd &&& zext16 imm8) s

/-- ANIR (R142): the four-bit immediate is filled with zeros (log 27). -/
def execAnir (rd rs1 : RegIdx) (imm4 : BitVec 4) (s : State) : Result :=
  finishWith rd (s.reg rs1 &&& zext16 imm4) s

/-- MSI (R144). -/
def execMsi (rd : RegIdx) (imm8 : BitVec 8) (s : State) : Result := finishWith rd (sext16 imm8) s

/-- The MSI shadow (R145), by `MSI_SHADOW`: `unspecified(msi_shadow)`, refused, its meaning being lost from
the source; or MSI's operation, which is what the source's page for it prints (log 9). -/
def execMsiShadow (rd : RegIdx) (imm8 : BitVec 8) (s : State) : Result :=
  match Settings.msiShadow with
  | .refused => .refused .msiShadow
  | .asMsi => finishWith rd (sext16 imm8) s

/-- MHI (R146). -/
def execMhi (rd : RegIdx) (imm8 : BitVec 8) (s : State) : Result :=
  finishWith rd (replaceHigh imm8 (s.reg rd)) s

/-- SLR (R148). -/
def execSlr (rd rs1 rs2 : RegIdx) (s : State) : Result :=
  finishWith rd (shift (s.reg rs1) (registerShiftAmount (s.reg rs2)) .logical) s

/-- SAR (R149). -/
def execSar (rd rs1 rs2 : RegIdx) (s : State) : Result :=
  finishWith rd (shift (s.reg rs1) (registerShiftAmount (s.reg rs2)) .arithmetic) s

end Sys2Proof.Machine
end

