-- ==== Sys2Proof/Machine/MulDiv.lean ====
section
/-! DEFINITION. MUL, MULS, MULL, DIV, DIVS, DIVQ (spec/45_mul_div.md R170 to R181). -/

namespace Sys2Proof.Machine

/-- MUL (R171): both halves of the unsigned product, placed by `MUL_RD_HALF` (log 11). -/
def execMul (rd rs1 rs2 : RegIdx) (s : State) : Result :=
  let halves := productPair (unsignedProduct (s.reg rs1) (s.reg rs2))
  finishWithPair rd halves.1 halves.2 s

/-- MULS (R172): both halves of the signed product. -/
def execMuls (rd rs1 rs2 : RegIdx) (s : State) : Result :=
  let halves := productPair (signedProduct (s.reg rs1) (s.reg rs2))
  finishWithPair rd halves.1 halves.2 s

/-- MULL (R173): the low half alone; it is the same for R15[12] = 1 (R174; log 19). -/
def execMull (rd rs1 rs2 : RegIdx) (s : State) : Result :=
  finishWith rd (lowHalf (unsignedProduct (s.reg rs1) (s.reg rs2))) s

/-- DIV (R175). -/
def execDiv (rd rs1 rs2 : RegIdx) (s : State) : Result :=
  finishDivide rd (unsignedDivide (s.reg rs1) (s.reg rs2)) s

/-- DIVS (R176). -/
def execDivs (rd rs1 rs2 : RegIdx) (s : State) : Result :=
  finishDivide rd (signedDivide (s.reg rs1) (s.reg rs2)) s

/-- DIVQ (R177): the quotient alone, of a signed division when R15[12] = 1 (R178; log 19). -/
def execDivq (rd rs1 rs2 : RegIdx) (s : State) : Result :=
  if shSgn s.r15 then finishQuotient rd (signedDivide (s.reg rs1) (s.reg rs2)) s
  else finishQuotient rd (unsignedDivide (s.reg rs1) (s.reg rs2)) s

end Sys2Proof.Machine
end

