-- ==== Sys2Proof/Machine/Reserved.lean ====
section
/-! DEFINITION. The two reserved opcodes (spec/30_encoding.md R93 (a); spec/60_exceptions.md R201). -/

namespace Sys2Proof.Machine

/-- RESERVED_0000: `raise Fault(reserved_opcode)` (R93; log 10). -/
def execReserved0000 (s : State) : Result := raise (.reservedOpcode s.pc)

/-- RESERVED_0001: `raise Fault(reserved_opcode)` (R93; log 10). -/
def execReserved0001 (s : State) : Result := raise (.reservedOpcode s.pc)

end Sys2Proof.Machine
end

