-- ==== Sys2Proof/Machine/ShiNot.lean ====
section
/-! DEFINITION. SHI, NTR, NTD (spec/46_shi_not.md R190 to R193). -/

namespace Sys2Proof.Machine

/-- SHI with LA = 0 (R190). -/
def execShiLogical (rd : RegIdx) (shim : BitVec 5) (s : State) : Result :=
  finishWith rd (shift (s.reg rd) (signMagnitudeAmount shim) .logical) s

/-- SHI with LA = 1 (R190). -/
def execShiArith (rd : RegIdx) (shim : BitVec 5) (s : State) : Result :=
  finishWith rd (shift (s.reg rd) (signMagnitudeAmount shim) .arithmetic) s

/-- NTR with c = 0 (R192). -/
def execNtrOnes (rd rs1 : RegIdx) (s : State) : Result :=
  finishWith rd (onesComplement (s.reg rs1)) s

/-- NTR with c = 1 (R192). -/
def execNtrTwos (rd rs1 : RegIdx) (s : State) : Result :=
  finishWith rd (twosComplement (s.reg rs1)) s

/-- NTD with c = 0 (R193). -/
def execNtdOnes (rd : RegIdx) (s : State) : Result := finishWith rd (onesComplement (s.reg rd)) s

/-- NTD with c = 1 (R193). -/
def execNtdTwos (rd : RegIdx) (s : State) : Result := finishWith rd (twosComplement (s.reg rd)) s

end Sys2Proof.Machine
end

