-- ==== Sys2Proof/Machine/Dispatch.lean ====
section
/-! DEFINITION. The meaning of each instruction, one arm per constructor. -/

namespace Sys2Proof.Machine

/-- What executing an instruction does to a state. The decoder has already chosen between a base
instruction and its shadows (spec/30_encoding.md R95; log 25). -/
def exec (i : Instr) (s : State) : Host.Outcome State Fault Refusal :=
  match i with
  | .reserved0000 => Sys2Proof.Machine.execReserved0000 s
  | .reserved0001 => Sys2Proof.Machine.execReserved0001 s
  | .ldr rd rs1 => Sys2Proof.Machine.execLdr rd rs1 s
  | .ldrIo rd rs1 => Sys2Proof.Machine.execLdrIo rd rs1 s
  | .str rd rs1 => Sys2Proof.Machine.execStr rd rs1 s
  | .strIo rd rs1 => Sys2Proof.Machine.execStrIo rd rs1 s
  | .jmrS0 rd rs1 => Sys2Proof.Machine.execJmrS0 rd rs1 s
  | .jmrS1 rd rs1 => Sys2Proof.Machine.execJmrS1 rd rs1 s
  | .jmi rd imm6 => Sys2Proof.Machine.execJmi rd imm6 s
  | .anr rd rs1 rs2 => Sys2Proof.Machine.execAnr rd rs1 rs2 s
  | .ani rd imm8 => Sys2Proof.Machine.execAni rd imm8 s
  | .anir rd rs1 imm4 => Sys2Proof.Machine.execAnir rd rs1 imm4 s
  | .msi rd imm8 => Sys2Proof.Machine.execMsi rd imm8 s
  | .msiShadow rd imm8 => Sys2Proof.Machine.execMsiShadow rd imm8 s
  | .mhi rd imm8 => Sys2Proof.Machine.execMhi rd imm8 s
  | .slr rd rs1 rs2 => Sys2Proof.Machine.execSlr rd rs1 rs2 s
  | .sar rd rs1 rs2 => Sys2Proof.Machine.execSar rd rs1 rs2 s
  | .adr rd rs1 rs2 => Sys2Proof.Machine.execAdr rd rs1 rs2 s
  | .sur rd rs1 rs2 => Sys2Proof.Machine.execSur rd rs1 rs2 s
  | .adi rd imm8 => Sys2Proof.Machine.execAdi rd imm8 s
  | .adir rd rs1 imm4 => Sys2Proof.Machine.execAdir rd rs1 imm4 s
  | .sui rd imm8 => Sys2Proof.Machine.execSui rd imm8 s
  | .suir rd rs1 imm4 => Sys2Proof.Machine.execSuir rd rs1 imm4 s
  | .mul rd rs1 rs2 => Sys2Proof.Machine.execMul rd rs1 rs2 s
  | .muls rd rs1 rs2 => Sys2Proof.Machine.execMuls rd rs1 rs2 s
  | .mull rd rs1 rs2 => Sys2Proof.Machine.execMull rd rs1 rs2 s
  | .div rd rs1 rs2 => Sys2Proof.Machine.execDiv rd rs1 rs2 s
  | .divs rd rs1 rs2 => Sys2Proof.Machine.execDivs rd rs1 rs2 s
  | .divq rd rs1 rs2 => Sys2Proof.Machine.execDivq rd rs1 rs2 s
  | .cmr rs1 rd => Sys2Proof.Machine.execCmr rs1 rd s
  | .cmrs rs1 rd => Sys2Proof.Machine.execCmrs rs1 rd s
  | .cmi imm5 rd => Sys2Proof.Machine.execCmi imm5 rd s
  | .cmis imm5 rd => Sys2Proof.Machine.execCmis imm5 rd s
  | .brc fib rd => Sys2Proof.Machine.execBrc fib rd s
  | .brr fib rd => Sys2Proof.Machine.execBrr fib rd s
  | .shiLogical rd shim => Sys2Proof.Machine.execShiLogical rd shim s
  | .shiArith rd shim => Sys2Proof.Machine.execShiArith rd shim s
  | .ntrOnes rd rs1 => Sys2Proof.Machine.execNtrOnes rd rs1 s
  | .ntrTwos rd rs1 => Sys2Proof.Machine.execNtrTwos rd rs1 s
  | .ntdOnes rd => Sys2Proof.Machine.execNtdOnes rd s
  | .ntdTwos rd => Sys2Proof.Machine.execNtdTwos rd s

end Sys2Proof.Machine
end

