-- ==== Sys2Proof/Machine/Step.lean ====
section
/-! DEFINITION. One step of the machine (spec/20_memory.md R54; spec/70_reset_and_hazards.md R240). -/

namespace Sys2Proof.Machine

/-- Fetch the word at pc, decode it under the R15 of before the instruction, execute it. The checks
come in the order of spec/60_exceptions.md R204. -/
def runInstruction (s : State) : Host.Outcome State Fault Refusal :=
  match s.fetch with
  | .error f => raise f
  | .ok w =>
    match decode s.r15 w with
    | .error e => refuseWord e
    | .ok i => exec i s

/-- One step: with `INTERRUPTS` none, always an instruction, since no step is an interrupt entry
(spec/60_exceptions.md R202; log 23). -/
def step (s : State) : Host.Outcome State Fault Refusal :=
  match Settings.interrupts with
  | .absent => runInstruction s

/-- `s` with the instruction word `w` (the low `nbits` of it) in memory at pc. It stands for the
launch's placing of the memory image (spec/70_reset_and_hazards.md R236; log 3). -/
def State.withFetchWord (s : State) (nbits w : Nat) : State := s.placeWord nbits w

end Sys2Proof.Machine
end

