-- ==== Sys2Proof/Safety.lean ====
section
/-! DEFINITION. The terms claims are stated in: what an instruction names as its destinations and
sources, what a step leaves unchanged, the invariant of the machine, where instructions stop, and the end
of a run. -/

namespace Sys2Proof.Machine

/-! ### What changes and what does not -/

/-- What register `rd` reads as after `x[rd] <- v`: R0 discards the write (spec/10_state.md R21). -/
def writtenTo (rd : RegIdx) (v : Word) : Word := if rd = 0#4 then 0#16 else v

/-- Every word of memory reads as before. -/
def SameMemory (s t : State) : Prop := ∀ a : Word, t.wordAt a = s.wordAt a

/-- No IO access was made: the event history, the lined-up answers and the devices are as before. -/
def SameIo (s t : State) : Prop := t.ioLog = s.ioLog ∧ t.ioIn = s.ioIn ∧ t.ioMap = s.ioMap

/-- From `s` to `t`, only the registers in `dests` may have changed, pc is `p`, memory and IO are as
before. R15 is a register: unless it is among `dests`, every shadow bit, flag and status bit is kept. -/
structure ChangesOnly (dests : List RegIdx) (p : Word) (s t : State) : Prop where
  regs : ∀ r, r ∉ dests → t.reg r = s.reg r
  pc : t.pc = p
  memory : SameMemory s t
  io : SameIo s t

/-- What a compare that finds `greater` and `equal` does: G and E are written, every other bit of R15 and
every other register is kept, pc moves to the next instruction (spec/42_control_flow.md R128). -/
structure SetsFlags (greater equal : Prop) (s t : State) : Prop where
  g : flagG t.r15 = true ↔ greater
  e : flagE t.r15 = true ↔ equal
  bits : ∀ k, k ≠ 5 → k ≠ 4 → t.r15.getLsbD k = s.r15.getLsbD k
  rest : ChangesOnly [15#4] (s.pc + 1) s t

/-! ### What an instruction names -/

/-- The registers an instruction writes explicitly: rd, and rd+1 in the two-result forms
(spec/10_state.md R28; spec/45_mul_div.md R170). -/
def destinations : Instr → List RegIdx
  | .ldr rd _ | .ldrIo rd _ | .jmrS1 rd _ | .jmi rd _ => [rd]
  | .anr rd _ _ | .ani rd _ | .anir rd _ _ | .msi rd _ | .mhi rd _ => [rd]
  | .slr rd _ _ | .sar rd _ _ | .shiLogical rd _ | .shiArith rd _ => [rd]
  | .adr rd _ _ | .sur rd _ _ | .adi rd _ | .adir rd _ _ | .sui rd _ | .suir rd _ _ => [rd]
  | .mul rd _ _ | .muls rd _ _ | .div rd _ _ | .divs rd _ _ => [rd, secondReg rd]
  | .mull rd _ _ | .divq rd _ _ => [rd]
  | .ntrOnes rd _ | .ntrTwos rd _ | .ntdOnes rd | .ntdTwos rd => [rd]
  | .reserved0000 | .reserved0001 | .str _ _ | .strIo _ _ | .jmrS0 _ _ | .msiShadow _ _ => []
  | .cmr _ _ | .cmrs _ _ | .cmi _ _ | .cmis _ _ | .brc _ _ | .brr _ _ => []

/-- The registers an instruction reads as operands (spec/10_state.md R28). -/
def sources : Instr → List RegIdx
  | .ldr _ rs1 | .ldrIo _ rs1 | .jmrS0 _ rs1 | .jmrS1 _ rs1 => [rs1]
  | .str rd rs1 | .strIo rd rs1 => [rd, rs1]
  | .anr _ rs1 rs2 | .slr _ rs1 rs2 | .sar _ rs1 rs2 | .adr _ rs1 rs2 | .sur _ rs1 rs2 => [rs1, rs2]
  | .mul _ rs1 rs2 | .muls _ rs1 rs2 | .mull _ rs1 rs2 => [rs1, rs2]
  | .div _ rs1 rs2 | .divs _ rs1 rs2 | .divq _ rs1 rs2 => [rs1, rs2]
  | .anir _ rs1 _ | .adir _ rs1 _ | .suir _ rs1 _ | .ntrOnes _ rs1 | .ntrTwos _ rs1 => [rs1]
  | .ani rd _ | .mhi rd _ | .adi rd _ | .sui rd _ | .shiLogical rd _ | .shiArith rd _ => [rd]
  | .ntdOnes rd | .ntdTwos rd => [rd]
  | .cmr rs1 rd | .cmrs rs1 rd => [rs1, rd]
  | .cmi _ rd | .cmis _ rd | .brc _ rd | .brr _ rd => [rd]
  | .reserved0000 | .reserved0001 | .jmi _ _ | .msi _ _ | .msiShadow _ _ => []

/-- The four compares, the only instructions that write G and E implicitly (spec/10_state.md R26). -/
def isCompare : Instr → Bool
  | .cmr _ _ | .cmrs _ _ | .cmi _ _ | .cmis _ _ => true
  | _ => false

/-- The instructions that may set pc otherwise than to pc + 1 (spec/10_state.md R31). -/
def isControlTransfer : Instr → Bool
  | .jmrS0 _ _ | .jmrS1 _ _ | .jmi _ _ | .brc _ _ | .brr _ _ => true
  | _ => false

/-- The address that an instruction stores to in memory, if it stores: x[rd] for STR
(spec/41_data_transfer.md R112). -/
def storeAddress (s : State) : Instr → Option Word
  | .str rd _ => some (s.reg rd)
  | _ => none

/-! ### Where execution stops -/

/-- The stops of spec/60_exceptions.md R201 that this model keeps: the two reserved opcodes, a reserved
condition, the MSI shadow, a load where memory has no value, a store outside `MEM_MAP`, an IO access that
is never answered. -/
def stopsAt (i : Instr) (s : State) : Bool :=
  match i with
  | .reserved0000 | .reserved0001 | .msiShadow _ _ => true
  | .brc fib _ | .brr fib _ => !(condOfFib fib).isSome
  | .ldr _ rs1 => !(memMapped (s.reg rs1) && (s.wordAt (s.reg rs1)).isSome)
  | .str rd _ => !memMapped (s.reg rd)
  | .ldrIo _ rs1 => !s.ioAnswered (s.reg rs1)
  | .strIo rd _ => !s.ioAnswered (s.reg rd)
  | _ => false

/-- A step that goes on: neither a fault nor a refusal. -/
def SafeStep (s : State) : Prop := ∃ t, step s = .next t

/-- The end of a run by the spec's convention: pc holds the address of a word 0x2C00, `JMI r0 0`
(spec/70_reset_and_hazards.md R234). -/
def Ended (s : State) : Prop := s.fetch = .ok 0x2C00#16

/-! ### The invariant -/

/-- The invariant of the machine: memory is in its canonical form (addresses strictly rising and below
2^16) and lists only addresses in `MEM_MAP` (spec/20_memory.md R50, R53, R61). -/
def State.Inv (s : State) : Prop :=
  s.mem.wf = true ∧ ∀ a ∈ s.mem.map Prod.fst, memMapped (BitVec.ofNat 16 a) = true

/-! ### Two runs compared -/

/-- The bits of R15 that instructions act on: the six assigned shadow bits, G and E (spec/10_state.md
R23, R25, R27). -/
def assignedR15 : Word := 0xFC30#16

/-- Two states that agree on everything but the unassigned bits of R15. -/
structure SameButUnassigned (t u : State) : Prop where
  gpr : u.gpr = t.gpr
  r15 : u.r15 &&& assignedR15 = t.r15 &&& assignedR15
  pc : u.pc = t.pc
  mem : u.mem = t.mem
  ioLog : u.ioLog = t.ioLog
  ioIn : u.ioIn = t.ioIn
  ioMap : u.ioMap = t.ioMap
  draws : u.draws = t.draws

/-- Two outcomes of one kind: next states that agree on everything but the unassigned bits of R15, or the
same stop. -/
def OutcomesAgree : Result → Result → Prop
  | .next t, .next u => SameButUnassigned t u
  | .fault f, .fault g => f = g
  | .refused r, .refused q => r = q
  | _, _ => False

end Sys2Proof.Machine
end

