-- ==== Sys2Proof/Certificates/Slice0/Obligations.lean ====
section
/-! DEFINITION. The statements for the provers. A statement says in its docstring which rule of spec/ it
formalises, or that it rests on a choice, and names the log entry. `ChangesOnly`, `SetsFlags` and
`writtenTo` (Sys2Proof/Safety.lean) are the frame: what a next state keeps of the state before. -/

open Sys2Proof Sys2Proof.Machine

/-! ### Encoding -/

/-- Decode and encode agree for every instruction, every operand at every value, under every R15 that
selects the instruction's row (spec/30_encoding.md R90, R95; the field order and the ignored bits are the
spec's choices, log 13, log 16, log 25). -/
def Obligations.DecodeOfEncodeIsTheInstruction : Prop :=
  ∀ (r15 : Word) (i : Instr), i.selectedBy r15 = true → decode r15 (encode i) = .ok i

/-- The other direction: a decoded instruction's row is selected by R15, and its word is the one decoded,
with the unused bits cleared (spec/30_encoding.md R94; that unused bits are ignored is the spec's choice,
log 16). -/
def Obligations.DecodedInstructionEncodesToItsWord : Prop :=
  ∀ (r15 w : Word) (i : Instr), decode r15 w = .ok i →
    i.selectedBy r15 = true ∧ encode i = w &&& ~~~i.unusedBits

/-- Every one of the 65,536 words decodes, and it matches exactly one (match, mask) pair of the opcode
table, the decoded row's (spec/30_encoding.md, conventions of opcode_table.json and R90;
that unused bits are ignored is the spec's choice D21, log 16). -/
def Obligations.EveryWordDecodesToOneTableRow : Prop :=
  ∀ r15 w : Word, ∃ i : Instr, decode r15 w = .ok i ∧ w &&& i.rowMask = i.rowMatch ∧
    ∀ j : Instr, w &&& j.rowMask = j.rowMatch → j.rowMask = i.rowMask ∧ j.rowMatch = i.rowMatch

/-- Words the spec writes out (the Example lines of its rules and 95_test_vectors.md) decode to the
instructions it gives for them; one word has two readings under R15[15] (the spec computed the words with
its own choices D21, D29, D35: log 13, log 16). -/
def Obligations.SpecExampleWordsDecode : Prop :=
  decode 0x0000#16 0x2023#16 = .ok (.ldr 3 2) ∧
  decode 0x0000#16 0x2A23#16 = .ok (.jmrS1 3 2) ∧
  decode 0x0000#16 0x2E03#16 = .ok (.jmi 3 0b100000#6) ∧
  decode 0x0000#16 0x3235#16 = .ok (.anr 5 3 2) ∧
  decode 0x0000#16 0x4215#16 = .ok (.ani 5 0x21#8) ∧
  decode 0x8000#16 0x4215#16 = .ok (.anir 5 1 2) ∧
  decode 0x0000#16 0xA325#16 = .ok (.sur 5 2 3) ∧
  decode 0x1000#16 0xE235#16 = .ok (.divs 5 3 2) ∧
  decode 0x0000#16 0xF3E2#16 = .ok (.cmi 0b11110#5 2) ∧
  decode 0x0000#16 0xF592#16 = .ok (.brc 0b11001#5 2) ∧
  decode 0x0000#16 0xFA35#16 = .ok (.shiArith 5 0b00011#5) ∧
  decode 0x0000#16 0xFFF5#16 = .ok (.ntdTwos 5)

/-- Only the six assigned shadow bits of R15 take part in decoding (spec/10_state.md R25 (d), (e); the
inertness of R15[9:8] is the spec's choice, decision D14, log 19). -/
def Obligations.DecodingReadsOnlyAssignedShadowBits : Prop :=
  ∀ r15 r15' w : Word, r15 &&& 0xFC00#16 = r15' &&& 0xFC00#16 → decode r15 w = decode r15' w

/-! ### Reset, registers -/

/-- The state after reset: pc and R15 as the spec's defaults say, no memory location has a value; that every
general register reads 0 is the model's choice (log 1), the defaults are the spec's (log 2, log 3). -/
def Obligations.ResetStateValues : Prop :=
  State.reset.pc = 0x0000#16 ∧ State.reset.r15 = 0x0000#16 ∧
  (∀ r, State.reset.reg r = 0x0000#16) ∧ (∀ a, State.reset.wordAt a = none) ∧
  State.reset.ioLog = []

/-- R0 reads 0, a write to it has no effect, and an instruction whose destination is R0 still makes its memory
access, its IO access, its jump, and its write of R1 when it is MUL or DIV (R21; that a location without a
value faults, that an IO read is recorded, that it completes without a device and hangs at a silent one, and
which half of a product R1 receives are choices: log 3, log 7, log 33, log 11). -/
def Obligations.RegisterZeroIsConstant : Prop :=
  (∀ s : State, s.reg 0 = 0) ∧
  (∀ (s : State) (v : Word), s.setReg 0 v = s) ∧
  (∀ (s : State) (rs1 : RegIdx) (v : Word), s.memRead (s.reg rs1) = .ok v →
    exec (.ldr 0 rs1) s = .next (s.setPc (s.pc + 1))) ∧
  (∀ (s : State) (rs1 : RegIdx) (f : Fault), s.memRead (s.reg rs1) = .error f →
    exec (.ldr 0 rs1) s = .fault f) ∧
  (∀ (s : State) (rs1 : RegIdx), s.ioDeviceAt (s.reg rs1) ≠ some .silent →
    ∃ t v, exec (.ldrIo 0 rs1) s = .next t ∧
      t.ioLog = s.ioLog ++ [.read (s.reg rs1) v] ∧ ∀ r, t.reg r = s.reg r) ∧
  (∀ (s : State) (rs1 : RegIdx), s.ioDeviceAt (s.reg rs1) = some .silent →
    exec (.ldrIo 0 rs1) s = .fault (.ioUnanswered s.pc (s.reg rs1))) ∧
  (∀ (s : State) (rs1 : RegIdx), exec (.jmrS1 0 rs1) s = .next (s.setPc (s.pc + s.reg rs1))) ∧
  (∀ (s : State) (imm6 : BitVec 6),
    exec (.jmi 0 imm6) s = .next (s.setPc (s.pc + imm6.signExtend 16))) ∧
  (∀ (s : State) (rs1 rs2 : RegIdx), ∃ t, exec (.mul 0 rs1 rs2) s = .next t ∧
    t.reg 1 = BitVec.ofNat 16 ((s.reg rs1).toNat * (s.reg rs2).toNat / 65536) ∧
    ∀ r, r ≠ 1 → t.reg r = s.reg r) ∧
  (∀ (s : State) (rs1 rs2 : RegIdx), s.reg rs2 ≠ 0 → ∃ t, exec (.div 0 rs1 rs2) s = .next t ∧
    t.reg 1 = BitVec.ofNat 16 ((s.reg rs1).toNat % (s.reg rs2).toNat) ∧
    ∀ r, r ≠ 1 → t.reg r = s.reg r)

/-! ### Data transfer -/

/-- LDR loads the whole word at x[rs1]; where that location has no value it faults (R110; the fault, rather
than a stuck state, that every address is mapped, and that the unused bit is ignored are choices: log 3,
log 5, log 16). -/
def Obligations.LoadFromMemory : Prop :=
  ∀ (s : State) (rd rs1 : RegIdx) (u : BitVec 1),
    decode s.r15 (0b0010000#7 ++ u ++ rs1 ++ rd) = .ok (.ldr rd rs1) ∧
    (∀ v, s.wordAt (s.reg rs1) = some v →
      ∃ t, exec (.ldr rd rs1) s = .next t ∧ t.reg rd = writtenTo rd v ∧
        ChangesOnly [rd] (s.pc + 1) s t) ∧
    (s.wordAt (s.reg rs1) = none →
      exec (.ldr rd rs1) s = .fault (.unwrittenMemory s.pc (s.reg rs1)))

/-- LDRio writes the device's answer to rd and records the read with its location; a lined-up answer is the
one returned, and with none lined up the answer is some value. At a device that never answers it hangs, the
model's fault (R111, R56, R62; the answer as a free input is the spec's choice D4, log 6, log 7; the hang as a
fault D32, log 26; that a location without a device answers, log 33; the unused bit, log 16). -/
def Obligations.LoadFromIo : Prop :=
  ∀ (s : State) (rd rs1 : RegIdx) (u : BitVec 1),
    decode s.r15 (0b0010001#7 ++ u ++ rs1 ++ rd) = .ok (.ldrIo rd rs1) ∧
    (s.ioDeviceAt (s.reg rs1) ≠ some .silent →
      ∃ t v, exec (.ldrIo rd rs1) s = .next t ∧ t.reg rd = writtenTo rd v ∧
        (∀ r, r ≠ rd → t.reg r = s.reg r) ∧ t.pc = s.pc + 1 ∧ SameMemory s t ∧
        t.ioLog = s.ioLog ++ [.read (s.reg rs1) v] ∧ t.ioIn = s.ioIn.tail ∧ t.ioMap = s.ioMap ∧
        (∀ a, s.ioIn.head? = some a → v = a)) ∧
    (s.ioDeviceAt (s.reg rs1) = some .silent →
      exec (.ldrIo rd rs1) s = .fault (.ioUnanswered s.pc (s.reg rs1)))

/-- STR stores the whole of x[rs1] at the address x[rd]; every other word of memory, every register and the IO
history are kept (R112; that every address is mapped is the default, log 5; the unused bit, log 16). -/
def Obligations.StoreToMemory : Prop :=
  ∀ (s : State) (rd rs1 : RegIdx) (u : BitVec 1),
    decode s.r15 (0b0010010#7 ++ u ++ rs1 ++ rd) = .ok (.str rd rs1) ∧
    ∃ t, exec (.str rd rs1) s = .next t ∧
      (∀ a, storeAddress s (.str rd rs1) = some a →
        t.wordAt a = some (s.reg rs1) ∧ ∀ b, b ≠ a → t.wordAt b = s.wordAt b) ∧
      storeAddress s (.str rd rs1) = some (s.reg rd) ∧
      (∀ r, t.reg r = s.reg r) ∧ t.pc = s.pc + 1 ∧ SameIo s t

/-- STRio appends the event (x[rd], x[rs1]) to the IO history and changes no register and no memory word; at a
device that never answers it hangs, the model's fault (R113, R57, R62; the recorded history is the spec's
choice D4, log 7; the hang as a fault D32, log 26; that a write to a location without a device completes, log 33;
the unused bit, log 16). -/
def Obligations.StoreToIo : Prop :=
  ∀ (s : State) (rd rs1 : RegIdx) (u : BitVec 1),
    decode s.r15 (0b0010011#7 ++ u ++ rs1 ++ rd) = .ok (.strIo rd rs1) ∧
    (s.ioDeviceAt (s.reg rd) ≠ some .silent →
      ∃ t, exec (.strIo rd rs1) s = .next t ∧
        t.ioLog = s.ioLog ++ [.write (s.reg rd) (s.reg rs1)] ∧ t.ioIn = s.ioIn ∧ t.ioMap = s.ioMap ∧
        (∀ r, t.reg r = s.reg r) ∧ t.pc = s.pc + 1 ∧ SameMemory s t) ∧
    (s.ioDeviceAt (s.reg rd) = some .silent →
      exec (.strIo rd rs1) s = .fault (.ioUnanswered s.pc (s.reg rd)))

/-- The next instruction executed after a store into the next address is the one stored (R67; the spec's
choice D7, log 24). -/
def Obligations.StoreIsSeenByTheNextFetch : Prop :=
  ∀ (s : State) (rd rs1 : RegIdx), s.reg rd = s.pc + 1 →
    ∃ t, exec (.str rd rs1) s = .next t ∧ t.fetch = .ok (s.reg rs1) ∧
      ∀ i, decode t.r15 (s.reg rs1) = .ok i → step t = exec i t

/-! ### Jumps and branches -/

/-- JMR jumps to pc + x[rs1]; with s = 1 rd receives pc + 1, with s = 0 no register changes; the offset is
read before the link is written (R120; that pc is the instruction's own address and every sum wraps is the
spec's choice D8, log 22; that the unused bit is ignored D21, log 16). -/
def Obligations.JumpRegistered : Prop :=
  ∀ (s : State) (rd rs1 : RegIdx) (u : BitVec 1),
    decode s.r15 (0b0010100#7 ++ u ++ rs1 ++ rd) = .ok (.jmrS0 rd rs1) ∧
    decode s.r15 (0b0010101#7 ++ u ++ rs1 ++ rd) = .ok (.jmrS1 rd rs1) ∧
    (∃ t, exec (.jmrS0 rd rs1) s = .next t ∧ ChangesOnly [] (s.pc + s.reg rs1) s t) ∧
    (∃ t, exec (.jmrS1 rd rs1) s = .next t ∧ t.reg rd = writtenTo rd (s.pc + 1) ∧
      ChangesOnly [rd] (s.pc + s.reg rs1) s t)

/-- JMI jumps to pc + sext(imm6) and always links (R121; that pc is the instruction's own address and every
sum wraps modulo 2^16 is the spec's choice D8, log 22). -/
def Obligations.JumpImmediate : Prop :=
  ∀ (s : State) (rd : RegIdx) (imm6 : BitVec 6),
    decode s.r15 (0b001011#6 ++ imm6 ++ rd) = .ok (.jmi rd imm6) ∧
    ∃ t, exec (.jmi rd imm6) s = .next t ∧ t.reg rd = writtenTo rd (s.pc + 1) ∧
      ChangesOnly [rd] (s.pc + imm6.signExtend 16) s t

/-- BRC on each of the six conditions: pc becomes x[rd] where the condition holds over G = R15[5] and
E = R15[4], else pc + 1; FIB[4:3] are ignored and nothing else changes (R122; the reading of the conditions
is the spec's choice D12, log 18). -/
def Obligations.BranchAbsolute : Prop :=
  ∀ (s : State) (hi : BitVec 2) (rd : RegIdx),
    let g := s.r15.getLsbD 5
    let e := s.r15.getLsbD 4
    exec (.brc (hi ++ 0b000#3) rd) s =
      .next (s.setPc (if e = true then s.reg rd else s.pc + 1)) ∧
    exec (.brc (hi ++ 0b001#3) rd) s =
      .next (s.setPc (if g = false ∧ e = false then s.reg rd else s.pc + 1)) ∧
    exec (.brc (hi ++ 0b010#3) rd) s =
      .next (s.setPc (if g = true then s.reg rd else s.pc + 1)) ∧
    exec (.brc (hi ++ 0b011#3) rd) s =
      .next (s.setPc (if g = true ∨ e = true then s.reg rd else s.pc + 1)) ∧
    exec (.brc (hi ++ 0b100#3) rd) s =
      .next (s.setPc (if (g = false ∧ e = false) ∨ e = true then s.reg rd else s.pc + 1)) ∧
    exec (.brc (hi ++ 0b101#3) rd) s =
      .next (s.setPc (if e = false then s.reg rd else s.pc + 1))

/-- BRR on each of the six conditions: pc becomes pc + x[rd] where the condition holds, else pc + 1; FIB[4:3]
are ignored and nothing else changes (R123; the reading of the conditions is the spec's choice D12,
log 18; the wrap of pc sums D8, log 22). -/
def Obligations.BranchRelative : Prop :=
  ∀ (s : State) (hi : BitVec 2) (rd : RegIdx),
    let g := s.r15.getLsbD 5
    let e := s.r15.getLsbD 4
    exec (.brr (hi ++ 0b000#3) rd) s =
      .next (s.setPc (if e = true then s.pc + s.reg rd else s.pc + 1)) ∧
    exec (.brr (hi ++ 0b001#3) rd) s =
      .next (s.setPc (if g = false ∧ e = false then s.pc + s.reg rd else s.pc + 1)) ∧
    exec (.brr (hi ++ 0b010#3) rd) s =
      .next (s.setPc (if g = true then s.pc + s.reg rd else s.pc + 1)) ∧
    exec (.brr (hi ++ 0b011#3) rd) s =
      .next (s.setPc (if g = true ∨ e = true then s.pc + s.reg rd else s.pc + 1)) ∧
    exec (.brr (hi ++ 0b100#3) rd) s =
      .next (s.setPc (if (g = false ∧ e = false) ∨ e = true then s.pc + s.reg rd else s.pc + 1)) ∧
    exec (.brr (hi ++ 0b101#3) rd) s =
      .next (s.setPc (if e = false then s.pc + s.reg rd else s.pc + 1))

/-- BRC and BRR with FIB[2:0] = 110 or 111 fault with the pc of the branch, for any FIB[4:3] (R93 (b); the
fault is the spec's choice D12, log 10). -/
def Obligations.ReservedConditionFaults : Prop :=
  ∀ (s : State) (hi : BitVec 2) (rd : RegIdx),
    exec (.brc (hi ++ 0b110#3) rd) s = .fault (.reservedCondition s.pc) ∧
    exec (.brc (hi ++ 0b111#3) rd) s = .fault (.reservedCondition s.pc) ∧
    exec (.brr (hi ++ 0b110#3) rd) s = .fault (.reservedCondition s.pc) ∧
    exec (.brr (hi ++ 0b111#3) rd) s = .fault (.reservedCondition s.pc)

/-! ### Compares -/

/-- CMR and CMRS write G (first operand x[rs1] greater than second x[rd]) and E (equal), unsigned where
R15[10] = 0 and signed where it is 1, and keep every other bit of R15 (R124, R125, R128; that a compare also
clears is the spec's choice D10, log 17; the unused bit, log 16). -/
def Obligations.CompareRegisters : Prop :=
  (∀ (s : State) (rs1 rd : RegIdx) (u : BitVec 1), s.r15.getLsbD 10 = false →
    decode s.r15 (0b1111000#7 ++ u ++ rs1 ++ rd) = .ok (.cmr rs1 rd) ∧
    ∃ t, exec (.cmr rs1 rd) s = .next t ∧
      SetsFlags ((s.reg rd).toNat < (s.reg rs1).toNat) (s.reg rs1 = s.reg rd) s t) ∧
  (∀ (s : State) (rs1 rd : RegIdx) (u : BitVec 1), s.r15.getLsbD 10 = true →
    decode s.r15 (0b1111000#7 ++ u ++ rs1 ++ rd) = .ok (.cmrs rs1 rd) ∧
    ∃ t, exec (.cmrs rs1 rd) s = .next t ∧
      SetsFlags ((s.reg rd).toInt < (s.reg rs1).toInt) (s.reg rs1 = s.reg rd) s t)

/-- CMI and CMIS do the same with the sign-extended immediate as first operand (R126, R127; immediate first is
the spec's choice D34, log 12). -/
def Obligations.CompareImmediate : Prop :=
  (∀ (s : State) (imm5 : BitVec 5) (rd : RegIdx), s.r15.getLsbD 10 = false →
    decode s.r15 (0b1111001#7 ++ imm5 ++ rd) = .ok (.cmi imm5 rd) ∧
    ∃ t, exec (.cmi imm5 rd) s = .next t ∧
      SetsFlags ((s.reg rd).toNat < (imm5.signExtend 16).toNat) (imm5.signExtend 16 = s.reg rd) s t) ∧
  (∀ (s : State) (imm5 : BitVec 5) (rd : RegIdx), s.r15.getLsbD 10 = true →
    decode s.r15 (0b1111001#7 ++ imm5 ++ rd) = .ok (.cmis imm5 rd) ∧
    ∃ t, exec (.cmis imm5 rd) s = .next t ∧
      SetsFlags ((s.reg rd).toInt < imm5.toInt) (imm5.toInt = (s.reg rd).toInt) s t)

/-- After any compare the six branch conditions are exactly the six relations between its first and its second
operand, unsigned after CMR and CMI and signed after CMRS and CMIS, and G and E are never both 1 (R26, R87;
the spec's choices D10, D12, log 17, log 18; the immediate first D34, log 12). -/
def Obligations.ConditionsAfterCompareAreTheRelations : Prop :=
  ∀ (s : State) (rs1 rd : RegIdx) (imm5 : BitVec 5),
    (∃ t, exec (.cmr rs1 rd) s = .next t ∧
      let a := (s.reg rs1).toNat
      let b := (s.reg rd).toNat
      condHolds t.r15 .eq = decide (a = b) ∧ condHolds t.r15 .ne = decide (a ≠ b) ∧
      condHolds t.r15 .lt = decide (a < b) ∧ condHolds t.r15 .gt = decide (b < a) ∧
      condHolds t.r15 .le = decide (a ≤ b) ∧ condHolds t.r15 .ge = decide (b ≤ a) ∧
      (flagG t.r15 && flagE t.r15) = false) ∧
    (∃ t, exec (.cmrs rs1 rd) s = .next t ∧
      let a := (s.reg rs1).toInt
      let b := (s.reg rd).toInt
      condHolds t.r15 .eq = decide (a = b) ∧ condHolds t.r15 .ne = decide (a ≠ b) ∧
      condHolds t.r15 .lt = decide (a < b) ∧ condHolds t.r15 .gt = decide (b < a) ∧
      condHolds t.r15 .le = decide (a ≤ b) ∧ condHolds t.r15 .ge = decide (b ≤ a) ∧
      (flagG t.r15 && flagE t.r15) = false) ∧
    (∃ t, exec (.cmi imm5 rd) s = .next t ∧
      let a := (imm5.signExtend 16).toNat
      let b := (s.reg rd).toNat
      condHolds t.r15 .eq = decide (a = b) ∧ condHolds t.r15 .ne = decide (a ≠ b) ∧
      condHolds t.r15 .lt = decide (a < b) ∧ condHolds t.r15 .gt = decide (b < a) ∧
      condHolds t.r15 .le = decide (a ≤ b) ∧ condHolds t.r15 .ge = decide (b ≤ a) ∧
      (flagG t.r15 && flagE t.r15) = false) ∧
    (∃ t, exec (.cmis imm5 rd) s = .next t ∧
      let a := imm5.toInt
      let b := (s.reg rd).toInt
      condHolds t.r15 .eq = decide (a = b) ∧ condHolds t.r15 .ne = decide (a ≠ b) ∧
      condHolds t.r15 .lt = decide (a < b) ∧ condHolds t.r15 .gt = decide (b < a) ∧
      condHolds t.r15 .le = decide (a ≤ b) ∧ condHolds t.r15 .ge = decide (b ≤ a) ∧
      (flagG t.r15 && flagE t.r15) = false)

/-! ### AND and moves -/

/-- ANR: x[rd] becomes x[rs1] AND x[rs2] (R140; the place of rs1 and rs2 is the spec's choice D35,
log 13). -/
def Obligations.AndRegistered : Prop :=
  ∀ (s : State) (rd rs1 rs2 : RegIdx),
    decode s.r15 (0b0011#4 ++ rs2 ++ rs1 ++ rd) = .ok (.anr rd rs1 rs2) ∧
    ∃ t, exec (.anr rd rs1 rs2) s = .next t ∧
      t.reg rd = writtenTo rd (s.reg rs1 &&& s.reg rs2) ∧ ChangesOnly [rd] (s.pc + 1) s t

/-- R141: ANI, where R15[15] = 0: x[rd] becomes x[rd] AND the zero-extended imm8. -/
def Obligations.AndImmediate : Prop :=
  ∀ (s : State) (rd : RegIdx) (imm8 : BitVec 8), s.r15.getLsbD 15 = false →
    decode s.r15 (0b0100#4 ++ imm8 ++ rd) = .ok (.ani rd imm8) ∧
    ∃ t, exec (.ani rd imm8) s = .next t ∧
      t.reg rd = writtenTo rd (s.reg rd &&& (0x00#8 ++ imm8)) ∧ ChangesOnly [rd] (s.pc + 1) s t

/-- ANIR, where R15[15] = 1: x[rd] becomes x[rs1] AND the zero-extended imm4 (R142; the twelve zeros are the
spec's choice D30, log 27). -/
def Obligations.AndImmediateRegister : Prop :=
  ∀ (s : State) (rd rs1 : RegIdx) (imm4 : BitVec 4), s.r15.getLsbD 15 = true →
    decode s.r15 (0b0100#4 ++ imm4 ++ rs1 ++ rd) = .ok (.anir rd rs1 imm4) ∧
    ∃ t, exec (.anir rd rs1 imm4) s = .next t ∧
      t.reg rd = writtenTo rd (s.reg rs1 &&& (0x000#12 ++ imm4)) ∧ ChangesOnly [rd] (s.pc + 1) s t

/-- R144: MSI, where R15[14] = 0: x[rd] becomes the sign-extended imm8. -/
def Obligations.MoveSignedImmediate : Prop :=
  ∀ (s : State) (rd : RegIdx) (imm8 : BitVec 8), s.r15.getLsbD 14 = false →
    decode s.r15 (0b0101#4 ++ imm8 ++ rd) = .ok (.msi rd imm8) ∧
    ∃ t, exec (.msi rd imm8) s = .next t ∧
      t.reg rd = writtenTo rd (imm8.signExtend 16) ∧ ChangesOnly [rd] (s.pc + 1) s t

/-- A word of opcode 0101, where R15[14] = 1, is the MSI shadow, and it is refused (R145; the refusal is the
spec's choice D15, log 9). -/
def Obligations.MoveShadowIsRefused : Prop :=
  ∀ (s : State) (rd : RegIdx) (imm8 : BitVec 8), s.r15.getLsbD 14 = true →
    decode s.r15 (0b0101#4 ++ imm8 ++ rd) = .ok (.msiShadow rd imm8) ∧
    exec (.msiShadow rd imm8) s = .refused .msiShadow

/-- R146: MHI, whatever R15 holds: bits 15:8 of x[rd] become imm8, bits 7:0 are kept. -/
def Obligations.MoveHighImmediate : Prop :=
  ∀ (s : State) (rd : RegIdx) (imm8 : BitVec 8),
    decode s.r15 (0b0110#4 ++ imm8 ++ rd) = .ok (.mhi rd imm8) ∧
    ∃ t, exec (.mhi rd imm8) s = .next t ∧
      t.reg rd = writtenTo rd (imm8 ++ (s.reg rd).extractLsb' 0 8) ∧ ChangesOnly [rd] (s.pc + 1) s t

/-- MSI then MHI build any 16-bit constant in a general register and change nothing else (the LI16 idiom of
30_encoding.md and the corner case of MSI). -/
def Obligations.TwoMovesBuildAnyConstant : Prop :=
  ∀ (s : State) (rd : RegIdx) (v : Word), rd ≠ 0 →
    ∃ t u, exec (.msi rd (v.extractLsb' 0 8)) s = .next t ∧
      exec (.mhi rd (v.extractLsb' 8 8)) t = .next u ∧
      u.reg rd = v ∧ ChangesOnly [rd] (s.pc + 2) s u

/-! ### Shifts -/

/-- SLR: the amount is x[rs2][4:0] in sign and magnitude; a left shift brings zeros in at bit 0, a right shift
at bit 15 (R148, R150; reading the amount so and the vacated bits are the spec's choices D19, D20, log 13,
log 14, log 15). -/
def Obligations.ShiftLogicalRegistered : Prop :=
  ∀ (s : State) (rd rs1 rs2 : RegIdx),
    decode s.r15 (0b0111#4 ++ rs2 ++ rs1 ++ rd) = .ok (.slr rd rs1 rs2) ∧
    ∃ t v, exec (.slr rd rs1 rs2) s = .next t ∧ t.reg rd = writtenTo rd v ∧
      ChangesOnly [rd] (s.pc + 1) s t ∧
      let n := ((s.reg rs2).extractLsb' 0 4).toNat
      ∀ k, k < 16 → v.getLsbD k =
        if (s.reg rs2).getLsbD 4 = true then decide (n ≤ k) && (s.reg rs1).getLsbD (k - n)
        else (s.reg rs1).getLsbD (k + n)

/-- SAR: as SLR, but a right shift brings in copies of bit 15 (R149, R150; the choices D19, D20, log 13,
log 14, log 15). -/
def Obligations.ShiftArithmeticRegistered : Prop :=
  ∀ (s : State) (rd rs1 rs2 : RegIdx),
    decode s.r15 (0b1000#4 ++ rs2 ++ rs1 ++ rd) = .ok (.sar rd rs1 rs2) ∧
    ∃ t v, exec (.sar rd rs1 rs2) s = .next t ∧ t.reg rd = writtenTo rd v ∧
      ChangesOnly [rd] (s.pc + 1) s t ∧
      let n := ((s.reg rs2).extractLsb' 0 4).toNat
      ∀ k, k < 16 → v.getLsbD k =
        if (s.reg rs2).getLsbD 4 = true then decide (n ≤ k) && (s.reg rs1).getLsbD (k - n)
        else if k + n < 16 then (s.reg rs1).getLsbD (k + n) else (s.reg rs1).getLsbD 15

/-- SHI: the amount is shim, its bit 4 the sign (1 for left) and bits 3:0 the magnitude; LA = 0 shifts
logically, LA = 1 arithmetically (R190, R86, R150; which bit is the sign and what fills the vacated places
are the spec's choices D37, D20, log 14, log 15). -/
def Obligations.ShiftImmediate : Prop :=
  ∀ (s : State) (rd : RegIdx) (sign : BitVec 1) (mag : BitVec 4),
    decode s.r15 (0b1111100#7 ++ (sign ++ mag) ++ rd) = .ok (.shiLogical rd (sign ++ mag)) ∧
    decode s.r15 (0b1111101#7 ++ (sign ++ mag) ++ rd) = .ok (.shiArith rd (sign ++ mag)) ∧
    (∃ t v, exec (.shiLogical rd (sign ++ mag)) s = .next t ∧ t.reg rd = writtenTo rd v ∧
      ChangesOnly [rd] (s.pc + 1) s t ∧
      ∀ k, k < 16 → v.getLsbD k =
        if sign = 1#1 then decide (mag.toNat ≤ k) && (s.reg rd).getLsbD (k - mag.toNat)
        else (s.reg rd).getLsbD (k + mag.toNat)) ∧
    (∃ t v, exec (.shiArith rd (sign ++ mag)) s = .next t ∧ t.reg rd = writtenTo rd v ∧
      ChangesOnly [rd] (s.pc + 1) s t ∧
      ∀ k, k < 16 → v.getLsbD k =
        if sign = 1#1 then decide (mag.toNat ≤ k) && (s.reg rd).getLsbD (k - mag.toNat)
        else if k + mag.toNat < 16 then (s.reg rd).getLsbD (k + mag.toNat)
        else (s.reg rd).getLsbD 15)

/-! ### Add and subtract -/

/-- ADR: x[rd] becomes x[rs1] + x[rs2] modulo 2^16, no flag (R160; the place of rs1 and rs2 is the spec's
choice D35, log 13; that no flag changes D11, log 17). -/
def Obligations.AddRegistered : Prop :=
  ∀ (s : State) (rd rs1 rs2 : RegIdx),
    decode s.r15 (0b1001#4 ++ rs2 ++ rs1 ++ rd) = .ok (.adr rd rs1 rs2) ∧
    ∃ t, exec (.adr rd rs1 rs2) s = .next t ∧
      t.reg rd = writtenTo rd (BitVec.ofNat 16 ((s.reg rs1).toNat + (s.reg rs2).toNat)) ∧
      ChangesOnly [rd] (s.pc + 1) s t

/-- SUR: x[rd] becomes x[rs1] - x[rs2] modulo 2^16, no flag (R161; the place of rs1 and rs2 is the spec's
choice D35, log 13; that no flag changes D11, log 17). -/
def Obligations.SubtractRegistered : Prop :=
  ∀ (s : State) (rd rs1 rs2 : RegIdx),
    decode s.r15 (0b1010#4 ++ rs2 ++ rs1 ++ rd) = .ok (.sur rd rs1 rs2) ∧
    ∃ t, exec (.sur rd rs1 rs2) s = .next t ∧
      t.reg rd = writtenTo rd (BitVec.ofInt 16 ((s.reg rs1).toInt - (s.reg rs2).toInt)) ∧
      ChangesOnly [rd] (s.pc + 1) s t

/-- ADI, where R15[15] = 0: x[rd] becomes x[rd] + sext(imm8) modulo 2^16, no flag (R162; that no flag changes is
the spec's choice D11, log 17). -/
def Obligations.AddImmediate : Prop :=
  ∀ (s : State) (rd : RegIdx) (imm8 : BitVec 8), s.r15.getLsbD 15 = false →
    decode s.r15 (0b1011#4 ++ imm8 ++ rd) = .ok (.adi rd imm8) ∧
    ∃ t, exec (.adi rd imm8) s = .next t ∧
      t.reg rd = writtenTo rd (BitVec.ofInt 16 ((s.reg rd).toInt + imm8.toInt)) ∧
      ChangesOnly [rd] (s.pc + 1) s t

/-- ADIR, where R15[15] = 1: x[rd] becomes x[rs1] + sext(imm4) modulo 2^16, no flag (R163; that no flag changes is
the spec's choice D11, log 17). -/
def Obligations.AddImmediateRegister : Prop :=
  ∀ (s : State) (rd rs1 : RegIdx) (imm4 : BitVec 4), s.r15.getLsbD 15 = true →
    decode s.r15 (0b1011#4 ++ imm4 ++ rs1 ++ rd) = .ok (.adir rd rs1 imm4) ∧
    ∃ t, exec (.adir rd rs1 imm4) s = .next t ∧
      t.reg rd = writtenTo rd (BitVec.ofInt 16 ((s.reg rs1).toInt + imm4.toInt)) ∧
      ChangesOnly [rd] (s.pc + 1) s t

/-- SUI, where R15[15] = 0: x[rd] becomes x[rd] - sext(imm8) modulo 2^16, no flag (R164; that no flag changes is
the spec's choice D11, log 17). -/
def Obligations.SubtractImmediate : Prop :=
  ∀ (s : State) (rd : RegIdx) (imm8 : BitVec 8), s.r15.getLsbD 15 = false →
    decode s.r15 (0b1100#4 ++ imm8 ++ rd) = .ok (.sui rd imm8) ∧
    ∃ t, exec (.sui rd imm8) s = .next t ∧
      t.reg rd = writtenTo rd (BitVec.ofInt 16 ((s.reg rd).toInt - imm8.toInt)) ∧
      ChangesOnly [rd] (s.pc + 1) s t

/-- SUIR, where R15[15] = 1: x[rd] becomes x[rs1] - sext(imm4) modulo 2^16, no flag (R165; that no flag changes is
the spec's choice D11, log 17). -/
def Obligations.SubtractImmediateRegister : Prop :=
  ∀ (s : State) (rd rs1 : RegIdx) (imm4 : BitVec 4), s.r15.getLsbD 15 = true →
    decode s.r15 (0b1100#4 ++ imm4 ++ rs1 ++ rd) = .ok (.suir rd rs1 imm4) ∧
    ∃ t, exec (.suir rd rs1 imm4) s = .next t ∧
      t.reg rd = writtenTo rd (BitVec.ofInt 16 ((s.reg rs1).toInt - imm4.toInt)) ∧
      ChangesOnly [rd] (s.pc + 1) s t

/-- The carry of an unsigned addition is recorded nowhere, but it is 1 exactly when the sum is below the first
operand (R166, a law the spec derives). -/
def Obligations.CarryShowsAsASmallerSum : Prop :=
  ∀ (s : State) (rd rs1 rs2 : RegIdx), rd ≠ 0 →
    ∃ t, exec (.adr rd rs1 rs2) s = .next t ∧
      (2 ^ 16 ≤ (s.reg rs1).toNat + (s.reg rs2).toNat ↔ (t.reg rd).toNat < (s.reg rs1).toNat)

/-! ### Multiply and divide -/

/-- MUL, where R15[13:12] = 00: x[rd] receives the low half of the exact unsigned product and x[rd+1] the high
half (R171; which half goes where is the spec's choice D33, log 11; the pair wraps by D16, log 20; the
field order is D35, log 13). -/
def Obligations.MultiplyUnsigned : Prop :=
  ∀ (s : State) (rd rs1 rs2 : RegIdx), s.r15.getLsbD 12 = false → s.r15.getLsbD 13 = false →
    decode s.r15 (0b1101#4 ++ rs2 ++ rs1 ++ rd) = .ok (.mul rd rs1 rs2) ∧
    ∃ t, exec (.mul rd rs1 rs2) s = .next t ∧
      let p := (s.reg rs1).toNat * (s.reg rs2).toNat
      t.reg rd = writtenTo rd (BitVec.ofNat 16 (p % 65536)) ∧
      t.reg (rd + 1) = writtenTo (rd + 1) (BitVec.ofNat 16 (p / 65536)) ∧
      ChangesOnly [rd, rd + 1] (s.pc + 1) s t

/-- MULS, where R15[13:12] = 01: the same with the exact signed product (R172; the choices of MUL, log 11,
log 13, log 20). -/
def Obligations.MultiplySigned : Prop :=
  ∀ (s : State) (rd rs1 rs2 : RegIdx), s.r15.getLsbD 12 = true → s.r15.getLsbD 13 = false →
    decode s.r15 (0b1101#4 ++ rs2 ++ rs1 ++ rd) = .ok (.muls rd rs1 rs2) ∧
    ∃ t, exec (.muls rd rs1 rs2) s = .next t ∧
      let p := (s.reg rs1).toInt * (s.reg rs2).toInt
      t.reg rd = writtenTo rd (BitVec.ofInt 16 p) ∧
      t.reg (rd + 1) = writtenTo (rd + 1) (BitVec.ofInt 16 (p / 65536)) ∧
      ChangesOnly [rd, rd + 1] (s.pc + 1) s t

/-- MULL, where R15[13] = 1, whatever R15[12] is: x[rd] alone receives the low half, which is that of the
unsigned and of the signed product alike (R173, R174; both bits together is the spec's choice D14, log 19;
the field order D35, log 13). -/
def Obligations.MultiplyLow : Prop :=
  ∀ (s : State) (rd rs1 rs2 : RegIdx), s.r15.getLsbD 13 = true →
    decode s.r15 (0b1101#4 ++ rs2 ++ rs1 ++ rd) = .ok (.mull rd rs1 rs2) ∧
    ∃ t v, exec (.mull rd rs1 rs2) s = .next t ∧ t.reg rd = writtenTo rd v ∧
      v = BitVec.ofNat 16 ((s.reg rs1).toNat * (s.reg rs2).toNat) ∧
      v = BitVec.ofInt 16 ((s.reg rs1).toInt * (s.reg rs2).toInt) ∧
      ChangesOnly [rd] (s.pc + 1) s t

/-- DIV, where R15[12:11] = 00 and the divisor is not 0: x[rd] receives the unsigned quotient and x[rd+1] the
remainder (R175; the pair wraps by the spec's choice D16, log 20; the field order D35, log 13). -/
def Obligations.DivideUnsigned : Prop :=
  ∀ (s : State) (rd rs1 rs2 : RegIdx), s.r15.getLsbD 12 = false → s.r15.getLsbD 11 = false →
    s.reg rs2 ≠ 0 →
    decode s.r15 (0b1110#4 ++ rs2 ++ rs1 ++ rd) = .ok (.div rd rs1 rs2) ∧
    ∃ t, exec (.div rd rs1 rs2) s = .next t ∧
      t.reg rd = writtenTo rd (BitVec.ofNat 16 ((s.reg rs1).toNat / (s.reg rs2).toNat)) ∧
      t.reg (rd + 1) = writtenTo (rd + 1) (BitVec.ofNat 16 ((s.reg rs1).toNat % (s.reg rs2).toNat)) ∧
      ChangesOnly [rd, rd + 1] (s.pc + 1) s t

/-- DIVS, where R15[12:11] = 10, the divisor is not 0 and the operands are not -32768 and -1: the quotient is
rounded toward zero and the remainder is the dividend less quotient times divisor (R176; the rounding is the
spec's choice D18, log 21; the pair D16, log 20; the field order D35, log 13). -/
def Obligations.DivideSigned : Prop :=
  ∀ (s : State) (rd rs1 rs2 : RegIdx), s.r15.getLsbD 12 = true → s.r15.getLsbD 11 = false →
    s.reg rs2 ≠ 0 → ¬(s.reg rs1 = 0x8000#16 ∧ s.reg rs2 = 0xFFFF#16) →
    decode s.r15 (0b1110#4 ++ rs2 ++ rs1 ++ rd) = .ok (.divs rd rs1 rs2) ∧
    ∃ t q r, exec (.divs rd rs1 rs2) s = .next t ∧
      t.reg rd = writtenTo rd q ∧ t.reg (rd + 1) = writtenTo (rd + 1) r ∧
      q.toInt = Int.tdiv (s.reg rs1).toInt (s.reg rs2).toInt ∧
      (s.reg rs1).toInt = q.toInt * (s.reg rs2).toInt + r.toInt ∧
      ChangesOnly [rd, rd + 1] (s.pc + 1) s t

/-- DIVQ, where R15[11] = 1 and the divisor is not 0: x[rd] alone receives the quotient, unsigned where
R15[12] = 0, and rounded toward zero of the signed operands where R15[12] = 1 and they are not -32768 and -1
(R177, R178; both bits together is the spec's choice D14, log 19; the rounding D18, log 21; the field order
D35, log 13). -/
def Obligations.DivideQuotientOnly : Prop :=
  ∀ (s : State) (rd rs1 rs2 : RegIdx), s.r15.getLsbD 11 = true → s.reg rs2 ≠ 0 →
    decode s.r15 (0b1110#4 ++ rs2 ++ rs1 ++ rd) = .ok (.divq rd rs1 rs2) ∧
    (s.r15.getLsbD 12 = false →
      ∃ t, exec (.divq rd rs1 rs2) s = .next t ∧
        t.reg rd = writtenTo rd (BitVec.ofNat 16 ((s.reg rs1).toNat / (s.reg rs2).toNat)) ∧
        ChangesOnly [rd] (s.pc + 1) s t) ∧
    (s.r15.getLsbD 12 = true → ¬(s.reg rs1 = 0x8000#16 ∧ s.reg rs2 = 0xFFFF#16) →
      ∃ t, exec (.divq rd rs1 rs2) s = .next t ∧
        t.reg rd = writtenTo rd (BitVec.ofInt 16 (Int.tdiv (s.reg rs1).toInt (s.reg rs2).toInt)) ∧
        ChangesOnly [rd] (s.pc + 1) s t)

/-- Where the source gives a division no result (a zero divisor; -32768 / -1 signed) it still completes: only
the destinations may change, whatever value they receive, and pc advances (R179; completing with free values
is the spec's choice D17, D18, log 8). -/
def Obligations.DivisionWithoutResultCompletes : Prop :=
  ∀ (s : State) (rd rs1 rs2 : RegIdx),
    (s.reg rs2 = 0 →
      (∃ t, exec (.div rd rs1 rs2) s = .next t ∧ ChangesOnly [rd, rd + 1] (s.pc + 1) s t) ∧
      (∃ t, exec (.divs rd rs1 rs2) s = .next t ∧ ChangesOnly [rd, rd + 1] (s.pc + 1) s t) ∧
      (∃ t, exec (.divq rd rs1 rs2) s = .next t ∧ ChangesOnly [rd] (s.pc + 1) s t)) ∧
    (s.reg rs1 = 0x8000#16 → s.reg rs2 = 0xFFFF#16 →
      (∃ t, exec (.divs rd rs1 rs2) s = .next t ∧ ChangesOnly [rd, rd + 1] (s.pc + 1) s t) ∧
      (s.r15.getLsbD 12 = true →
        ∃ t, exec (.divq rd rs1 rs2) s = .next t ∧ ChangesOnly [rd] (s.pc + 1) s t))

/-- The laws of division: for DIV the dividend is quotient times divisor plus a remainder below the divisor;
for DIVS the same over signed values, the remainder smaller than the divisor in absolute value and zero or of
the dividend's sign (R181, a law the spec derives; log 21). -/
def Obligations.DivisionLaws : Prop :=
  ∀ (s : State) (rd rs1 rs2 : RegIdx), rd ≠ 0 → rd ≠ 15 → s.reg rs2 ≠ 0 →
    (∃ t, exec (.div rd rs1 rs2) s = .next t ∧
      (s.reg rs1).toNat = (t.reg rd).toNat * (s.reg rs2).toNat + (t.reg (rd + 1)).toNat ∧
      (t.reg (rd + 1)).toNat < (s.reg rs2).toNat) ∧
    (¬(s.reg rs1 = 0x8000#16 ∧ s.reg rs2 = 0xFFFF#16) →
      ∃ t, exec (.divs rd rs1 rs2) s = .next t ∧
        (s.reg rs1).toInt = (t.reg rd).toInt * (s.reg rs2).toInt + (t.reg (rd + 1)).toInt ∧
        (t.reg (rd + 1)).toInt.natAbs < (s.reg rs2).toInt.natAbs ∧
        (0 ≤ (s.reg rs1).toInt → 0 ≤ (t.reg (rd + 1)).toInt) ∧
        ((s.reg rs1).toInt ≤ 0 → (t.reg (rd + 1)).toInt ≤ 0))

/-! ### Complements -/

/-- NTR: x[rd] becomes the one's complement (c = 0) or the two's complement (c = 1) of x[rs1] (R192; that the
two's complement is the one's plus one is the spec's from general knowledge, log 32). -/
def Obligations.ComplementRegistered : Prop :=
  ∀ (s : State) (rd rs1 : RegIdx),
    decode s.r15 (0b11111100#8 ++ rs1 ++ rd) = .ok (.ntrOnes rd rs1) ∧
    decode s.r15 (0b11111101#8 ++ rs1 ++ rd) = .ok (.ntrTwos rd rs1) ∧
    (∃ t v, exec (.ntrOnes rd rs1) s = .next t ∧ t.reg rd = writtenTo rd v ∧
      (∀ k, k < 16 → v.getLsbD k = !(s.reg rs1).getLsbD k) ∧ ChangesOnly [rd] (s.pc + 1) s t) ∧
    (∃ t, exec (.ntrTwos rd rs1) s = .next t ∧
      t.reg rd = writtenTo rd (BitVec.ofInt 16 (-(s.reg rs1).toInt)) ∧
      ChangesOnly [rd] (s.pc + 1) s t)

/-- NTD complements x[rd] in place, every bit inverted (c = 0), and one added modulo 2^16 (c = 1) (R193; that
the unused IR[7:4] are ignored is the spec's choice D21, log 16). -/
def Obligations.ComplementInPlace : Prop :=
  ∀ (s : State) (rd unused : RegIdx),
    decode s.r15 (0b11111110#8 ++ unused ++ rd) = .ok (.ntdOnes rd) ∧
    decode s.r15 (0b11111111#8 ++ unused ++ rd) = .ok (.ntdTwos rd) ∧
    (∃ t v, exec (.ntdOnes rd) s = .next t ∧ t.reg rd = writtenTo rd v ∧
      (∀ k, k < 16 → v.getLsbD k = !(s.reg rd).getLsbD k) ∧ ChangesOnly [rd] (s.pc + 1) s t) ∧
    (∃ t v, exec (.ntdTwos rd) s = .next t ∧ t.reg rd = writtenTo rd (v + 1) ∧
      (∀ k, k < 16 → v.getLsbD k = !(s.reg rd).getLsbD k) ∧ ChangesOnly [rd] (s.pc + 1) s t)

/-! ### Reserved opcodes -/

/-- Every word of opcode 0000 and 0001 is reserved and faults with the pc of the word, for any of its other
bits (R93 (a); the fault is the spec's choice D22, log 10). -/
def Obligations.ReservedOpcodesFault : Prop :=
  ∀ (s : State) (rest : BitVec 12),
    decode s.r15 (0b0000#4 ++ rest) = .ok .reserved0000 ∧
    decode s.r15 (0b0001#4 ++ rest) = .ok .reserved0001 ∧
    exec .reserved0000 s = .fault (.reservedOpcode s.pc) ∧
    exec .reserved0001 s = .fault (.reservedOpcode s.pc)

/-! ### The machine -/

/-- A step runs the decoded instruction: where the word at pc decodes under R15 to `i`, the step is what `i`
does at that state, nothing around it; where pc's location has no value the step faults (R54, R240; log 3,
log 24). -/
def Obligations.StepRunsTheDecodedInstruction : Prop :=
  (∀ (s : State) (w : Word) (i : Instr), s.wordAt s.pc = some w → decode s.r15 w = .ok i →
    step s = exec i s) ∧
  (∀ s : State, s.wordAt s.pc = none → step s = .fault (.unwrittenMemory s.pc s.pc))

/-- No instruction changes a register but its destinations; R15 changes besides only in a compare (R28, R31;
log 17). -/
def Obligations.OnlyDestinationRegistersChange : Prop :=
  ∀ (i : Instr) (s t : State), exec i s = .next t → ∀ r, r ∉ destinations i →
    (r = 15 → isCompare i = false) → t.reg r = s.reg r

/-- G and E are written as a side effect by the four compares alone, and the other bits of R15 by no
instruction that does not name R15 as a destination (R26, R27; that arithmetic writes no flag is the spec's
choice D11, that a shadow bit stays set is D13, log 17, log 19, log 31). -/
def Obligations.OnlyComparesWriteFlagsImplicitly : Prop :=
  ∀ (i : Instr) (s t : State), exec i s = .next t → 15 ∉ destinations i →
    (isCompare i = false → t.r15 = s.r15) ∧
    ∀ k, k ≠ 5 → k ≠ 4 → t.r15.getLsbD k = s.r15.getLsbD k

/-- Every instruction but JMR, JMI, BRC and BRR ends with pc + 1 modulo 2^16 (R31, a rule the spec
derives; the wrap is D8, log 22). -/
def Obligations.OnlyControlTransfersSetPc : Prop :=
  ∀ (i : Instr) (s t : State), exec i s = .next t → isControlTransfer i = false → t.pc = s.pc + 1

/-- No instruction changes a word of memory but STR, and STR only the word at its address (R53, R112). -/
def Obligations.OnlyStoreChangesMemory : Prop :=
  ∀ (i : Instr) (s t : State), exec i s = .next t →
    ∀ a, storeAddress s i ≠ some a → t.wordAt a = s.wordAt a

/-- The IO history grows by exactly the one event of an LDRio or STRio, in program order, and by nothing else;
lined-up answers are used by LDRio alone; the devices stay as they are (R56, R57, R64; log 6, log 7, log 24,
log 33). -/
def Obligations.IoHistoryRecordsEachAccess : Prop :=
  ∀ (i : Instr) (s t : State), exec i s = .next t →
    match i with
    | .ldrIo _ rs1 => (∃ v, t.ioLog = s.ioLog ++ [.read (s.reg rs1) v]) ∧
      t.ioIn = s.ioIn.tail ∧ t.ioMap = s.ioMap
    | .strIo rd rs1 => t.ioLog = s.ioLog ++ [.write (s.reg rd) (s.reg rs1)] ∧
      t.ioIn = s.ioIn ∧ t.ioMap = s.ioMap
    | _ => SameIo s t

/-- An instruction completes at a state if and only if it is not one of the listed stops there: a reserved
opcode, a reserved condition, the MSI shadow, a load where memory has no value, a store outside the map, an IO
access that is never answered (the table of R201, less the read of a register without a value, which this model
does not have: log 1; the stops are the spec's choices D12, D15, D22, D32, log 3, log 9, log 10, log 23, log 26).
That STR always completes rests on the default map (log 5), that LDRio and STRio complete wherever no silent
device stands on log 6 and log 33, and that a division without a result completes on log 8. -/
def Obligations.InstructionsStopExactlyWhereListed : Prop :=
  ∀ (i : Instr) (s : State), (∃ t, exec i s = .next t) ↔ stopsAt i s = false

/-- The bits of R15 that the spec assigns no function influence nothing: two states that differ only in them
decode every word alike, and an instruction that does not read R15 as an operand takes them to outcomes that
agree on everything but those bits (R25 (d), R27; the spec's choices D14, D36, log 19, log 31). -/
def Obligations.UnassignedBitsInfluenceNothing : Prop :=
  ∀ (s : State) (x : Word), x &&& assignedR15 = s.r15 &&& assignedR15 →
    (∀ w, decode x w = decode s.r15 w) ∧
    ∀ i, 15 ∉ sources i → OutcomesAgree (exec i s) (exec i (s.setR15 x))

/-- The reset state meets the invariant (its memory lists nothing: log 3). -/
def Obligations.ResetMeetsTheInvariant : Prop := State.reset.Inv

/-- Every step from a state that meets the invariant ends in one that meets it: memory keeps its canonical
form and lists only mapped addresses (R50, R53, R61; the form and the default map are choices, log 4,
log 5). -/
def Obligations.EveryStepKeepsTheInvariant : Prop :=
  ∀ s t : State, s.Inv → step s = .next t → t.Inv

/-- Once a run has ended, at the word `JMI r0 0`, no step changes any of the state, however many are taken
(R234, the spec's convention D26; log 23). -/
def Obligations.EndedRunStaysAsItIs : Prop :=
  ∀ s : State, Ended s → ∀ k : Nat, Host.Core.run Sys2Proof.core k s = .next s
end

