-- ==== Sys2Proof/Laws/Decode.lean ====
section
/-! SUPPORT. The decoder under the default settings, and the fields of a word written as the
concatenation of its fields. -/

namespace Sys2Proof

/-- With `STRICT_UNUSED_BITS` false the decoder answers the row of every word (log 16). -/
@[simp] theorem decode_eq_row (r15 w : Word) : decode r15 w = .ok (decodeRow r15 w) := by
  simp [decode, Machine.Settings.strictUnusedBits]

/-- With the default `R3_FIELD_ORDER`, rs1 = IR[7:4] (log 13). -/
@[simp] theorem r3Rs1Of_eq (w : Word) : r3Rs1Of w = w.extractLsb' 4 4 := rfl

/-- With the default `R3_FIELD_ORDER`, rs2 = IR[11:8] (log 13). -/
@[simp] theorem r3Rs2Of_eq (w : Word) : r3Rs2Of w = w.extractLsb' 8 4 := rfl

/-- A field inside the low part of a concatenation is that part's field. -/
theorem extract_append_low {n m : Nat} (x : BitVec n) (y : BitVec m) {start len : Nat}
    (h : start + len ≤ m) : (x ++ y).extractLsb' start len = y.extractLsb' start len := by
  ext k hk
  simp only [BitVec.getElem_extractLsb', BitVec.getLsbD_append]
  rw [if_pos (by omega)]

/-- A field inside the high part of a concatenation is that part's field. -/
theorem extract_append_high {n m : Nat} (x : BitVec n) (y : BitVec m) {start len : Nat}
    (h : m ≤ start) : (x ++ y).extractLsb' start len = x.extractLsb' (start - m) len := by
  ext k hk
  simp only [BitVec.getElem_extractLsb', BitVec.getLsbD_append]
  rw [if_neg (by omega), show start + k - m = start - m + k by omega]

/-- The whole of a bit vector as a field of itself. -/
@[simp] theorem extract_whole {n : Nat} (x : BitVec n) : x.extractLsb' 0 n = x := by
  ext k hk; simp

/-! ### The fields of each format -/
section
variable (rd rs1 rs2 imm4 op : BitVec 4) (imm8 : BitVec 8) (imm6 top6 : BitVec 6) (v5 : BitVec 5)
variable (top7 : BitVec 7) (top8 : BitVec 8)

/-- With the default `R3_FIELD_ORDER`, format R3 is opcode, rs2, rs1, rd (log 13). -/
theorem encodeR3_eq : encodeR3 op rd rs1 rs2 = op ++ rs2 ++ rs1 ++ rd := rfl

@[simp] theorem opcodeOf_encodeR3 : opcodeOf (encodeR3 op rd rs1 rs2) = op := by
  ext k hk; simp [opcodeOf, encodeR3_eq]; grind
@[simp] theorem rdOf_encodeR3 : rdOf (encodeR3 op rd rs1 rs2) = rd := by
  ext k hk; simp [rdOf, encodeR3_eq]; grind
@[simp] theorem r3Rs1Of_encodeR3 : (encodeR3 op rd rs1 rs2).extractLsb' 4 4 = rs1 := by
  ext k hk; simp [encodeR3_eq]; grind
@[simp] theorem r3Rs2Of_encodeR3 : (encodeR3 op rd rs1 rs2).extractLsb' 8 4 = rs2 := by
  ext k hk; simp [encodeR3_eq]; grind

@[simp] theorem opcodeOf_encodeI8 : opcodeOf (encodeI8 op rd imm8) = op := by
  ext k hk; simp [opcodeOf, encodeI8]; grind
@[simp] theorem rdOf_encodeI8 : rdOf (encodeI8 op rd imm8) = rd := by
  ext k hk; simp [rdOf, encodeI8]; grind
@[simp] theorem imm8Of_encodeI8 : imm8Of (encodeI8 op rd imm8) = imm8 := by
  ext k hk; simp [imm8Of, encodeI8]; grind

@[simp] theorem opcodeOf_encodeRI4 : opcodeOf (encodeRI4 op rd rs1 imm4) = op := by
  ext k hk; simp [opcodeOf, encodeRI4]; grind
@[simp] theorem rdOf_encodeRI4 : rdOf (encodeRI4 op rd rs1 imm4) = rd := by
  ext k hk; simp [rdOf, encodeRI4]; grind
@[simp] theorem rs1Of_encodeRI4 : rs1Of (encodeRI4 op rd rs1 imm4) = rs1 := by
  ext k hk; simp [rs1Of, encodeRI4]; grind
@[simp] theorem imm4Of_encodeRI4 : imm4Of (encodeRI4 op rd rs1 imm4) = imm4 := by
  ext k hk; simp [imm4Of, encodeRI4]; grind

@[simp] theorem opcodeOf_encodeX2 : opcodeOf (encodeX2 top8 rd rs1) = top8.extractLsb' 4 4 := by
  ext k hk; simp [opcodeOf, encodeX2]; grind
@[simp] theorem extOf_encodeX2 : extOf (encodeX2 top8 rd rs1) = top8.extractLsb' 2 2 := by
  ext k hk; simp [extOf, encodeX2]; grind
@[simp] theorem bit9_encodeX2 : (encodeX2 top8 rd rs1)[9] = top8[1] := by
  simp [encodeX2]; grind
@[simp] theorem bit8_encodeX2 : (encodeX2 top8 rd rs1)[8] = top8[0] := by
  simp [encodeX2]; grind
@[simp] theorem rdOf_encodeX2 : rdOf (encodeX2 top8 rd rs1) = rd := by
  ext k hk; simp [rdOf, encodeX2]; grind
@[simp] theorem rs1Of_encodeX2 : rs1Of (encodeX2 top8 rd rs1) = rs1 := by
  ext k hk; simp [rs1Of, encodeX2]; grind

@[simp] theorem opcodeOf_encodeI5 : opcodeOf (encodeI5 top7 rd v5) = top7.extractLsb' 3 4 := by
  ext k hk; simp [opcodeOf, encodeI5]; grind
@[simp] theorem extOf_encodeI5 : extOf (encodeI5 top7 rd v5) = top7.extractLsb' 1 2 := by
  ext k hk; simp [extOf, encodeI5]; grind
@[simp] theorem bit9_encodeI5 : (encodeI5 top7 rd v5)[9] = top7[0] := by
  simp [encodeI5]; grind
@[simp] theorem rdOf_encodeI5 : rdOf (encodeI5 top7 rd v5) = rd := by
  ext k hk; simp [rdOf, encodeI5]; grind
@[simp] theorem v5Of_encodeI5 : v5Of (encodeI5 top7 rd v5) = v5 := by
  ext k hk; simp [v5Of, encodeI5]; grind

@[simp] theorem opcodeOf_encodeJ6 : opcodeOf (encodeJ6 top6 rd imm6) = top6.extractLsb' 2 4 := by
  ext k hk; simp [opcodeOf, encodeJ6]; grind
@[simp] theorem extOf_encodeJ6 : extOf (encodeJ6 top6 rd imm6) = top6.extractLsb' 0 2 := by
  ext k hk; simp [extOf, encodeJ6]; grind
@[simp] theorem rdOf_encodeJ6 : rdOf (encodeJ6 top6 rd imm6) = rd := by
  ext k hk; simp [rdOf, encodeJ6]; grind
@[simp] theorem imm6Of_encodeJ6 : imm6Of (encodeJ6 top6 rd imm6) = imm6 := by
  ext k hk; simp [imm6Of, encodeJ6]; grind
end

end Sys2Proof
end

