-- ==== Sys2Proof/Laws/State.lean ====
section
/-! SUPPORT. One lemma per field per update of the state, and what the registers read as after each
update. -/

namespace Sys2Proof.Machine

/-! ### setPc -/
@[simp] theorem State.setPc_pc (s : State) (t : Word) : (s.setPc t).pc = t := rfl
@[simp] theorem State.setPc_gpr (s : State) (t : Word) : (s.setPc t).gpr = s.gpr := rfl
@[simp] theorem State.setPc_r15 (s : State) (t : Word) : (s.setPc t).r15 = s.r15 := rfl
@[simp] theorem State.setPc_mem (s : State) (t : Word) : (s.setPc t).mem = s.mem := rfl
@[simp] theorem State.setPc_ioLog (s : State) (t : Word) : (s.setPc t).ioLog = s.ioLog := rfl
@[simp] theorem State.setPc_ioIn (s : State) (t : Word) : (s.setPc t).ioIn = s.ioIn := rfl
@[simp] theorem State.setPc_ioMap (s : State) (t : Word) : (s.setPc t).ioMap = s.ioMap := rfl
@[simp] theorem State.setPc_draws (s : State) (t : Word) : (s.setPc t).draws = s.draws := rfl
@[simp] theorem State.setPc_reg (s : State) (t : Word) (i : RegIdx) :
    (s.setPc t).reg i = s.reg i := rfl
@[simp] theorem State.setPc_wordAt (s : State) (t a : Word) :
    (s.setPc t).wordAt a = s.wordAt a := rfl

/-! ### setR15 -/
@[simp] theorem State.setR15_r15 (s : State) (v : Word) : (s.setR15 v).r15 = v := rfl
@[simp] theorem State.setR15_gpr (s : State) (v : Word) : (s.setR15 v).gpr = s.gpr := rfl
@[simp] theorem State.setR15_pc (s : State) (v : Word) : (s.setR15 v).pc = s.pc := rfl
@[simp] theorem State.setR15_mem (s : State) (v : Word) : (s.setR15 v).mem = s.mem := rfl
@[simp] theorem State.setR15_ioLog (s : State) (v : Word) : (s.setR15 v).ioLog = s.ioLog := rfl
@[simp] theorem State.setR15_ioIn (s : State) (v : Word) : (s.setR15 v).ioIn = s.ioIn := rfl
@[simp] theorem State.setR15_ioMap (s : State) (v : Word) : (s.setR15 v).ioMap = s.ioMap := rfl
@[simp] theorem State.setR15_draws (s : State) (v : Word) : (s.setR15 v).draws = s.draws := rfl
@[simp] theorem State.setR15_wordAt (s : State) (v a : Word) :
    (s.setR15 v).wordAt a = s.wordAt a := rfl

/-! ### setReg -/
@[simp] theorem State.setReg_pc (s : State) (i : RegIdx) (v : Word) : (s.setReg i v).pc = s.pc := by
  unfold State.setReg; split <;> [rfl; split <;> rfl]
@[simp] theorem State.setReg_mem (s : State) (i : RegIdx) (v : Word) :
    (s.setReg i v).mem = s.mem := by
  unfold State.setReg; split <;> [rfl; split <;> rfl]
@[simp] theorem State.setReg_ioLog (s : State) (i : RegIdx) (v : Word) :
    (s.setReg i v).ioLog = s.ioLog := by
  unfold State.setReg; split <;> [rfl; split <;> rfl]
@[simp] theorem State.setReg_ioIn (s : State) (i : RegIdx) (v : Word) :
    (s.setReg i v).ioIn = s.ioIn := by
  unfold State.setReg; split <;> [rfl; split <;> rfl]
@[simp] theorem State.setReg_ioMap (s : State) (i : RegIdx) (v : Word) :
    (s.setReg i v).ioMap = s.ioMap := by
  unfold State.setReg; split <;> [rfl; split <;> rfl]
@[simp] theorem State.setReg_draws (s : State) (i : RegIdx) (v : Word) :
    (s.setReg i v).draws = s.draws := by
  unfold State.setReg; split <;> [rfl; split <;> rfl]
@[simp] theorem State.setReg_wordAt (s : State) (i : RegIdx) (v a : Word) :
    (s.setReg i v).wordAt a = s.wordAt a := by
  unfold State.wordAt; rw [State.setReg_mem]

/-! ### putWord -/
@[simp] theorem State.putWord_mem (s : State) (a v : Word) :
    (s.putWord a v).mem = s.mem.write a.toNat v := rfl
@[simp] theorem State.putWord_gpr (s : State) (a v : Word) : (s.putWord a v).gpr = s.gpr := rfl
@[simp] theorem State.putWord_r15 (s : State) (a v : Word) : (s.putWord a v).r15 = s.r15 := rfl
@[simp] theorem State.putWord_pc (s : State) (a v : Word) : (s.putWord a v).pc = s.pc := rfl
@[simp] theorem State.putWord_ioLog (s : State) (a v : Word) : (s.putWord a v).ioLog = s.ioLog := rfl
@[simp] theorem State.putWord_ioIn (s : State) (a v : Word) : (s.putWord a v).ioIn = s.ioIn := rfl
@[simp] theorem State.putWord_ioMap (s : State) (a v : Word) : (s.putWord a v).ioMap = s.ioMap := rfl
@[simp] theorem State.putWord_draws (s : State) (a v : Word) : (s.putWord a v).draws = s.draws := rfl
@[simp] theorem State.putWord_reg (s : State) (a v : Word) (i : RegIdx) :
    (s.putWord a v).reg i = s.reg i := rfl

/-! ### ioSend -/
@[simp] theorem State.ioSend_ioLog (s : State) (a v : Word) :
    (s.ioSend a v).ioLog = s.ioLog ++ [.write a v] := rfl
@[simp] theorem State.ioSend_gpr (s : State) (a v : Word) : (s.ioSend a v).gpr = s.gpr := rfl
@[simp] theorem State.ioSend_r15 (s : State) (a v : Word) : (s.ioSend a v).r15 = s.r15 := rfl
@[simp] theorem State.ioSend_pc (s : State) (a v : Word) : (s.ioSend a v).pc = s.pc := rfl
@[simp] theorem State.ioSend_mem (s : State) (a v : Word) : (s.ioSend a v).mem = s.mem := rfl
@[simp] theorem State.ioSend_ioIn (s : State) (a v : Word) : (s.ioSend a v).ioIn = s.ioIn := rfl
@[simp] theorem State.ioSend_ioMap (s : State) (a v : Word) : (s.ioSend a v).ioMap = s.ioMap := rfl
@[simp] theorem State.ioSend_draws (s : State) (a v : Word) : (s.ioSend a v).draws = s.draws := rfl
@[simp] theorem State.ioSend_reg (s : State) (a v : Word) (i : RegIdx) :
    (s.ioSend a v).reg i = s.reg i := rfl
@[simp] theorem State.ioSend_wordAt (s : State) (a v b : Word) :
    (s.ioSend a v).wordAt b = s.wordAt b := rfl

/-! ### draw -/
@[simp] theorem State.draw_gpr (s : State) : s.draw.2.gpr = s.gpr := rfl
@[simp] theorem State.draw_r15 (s : State) : s.draw.2.r15 = s.r15 := rfl
@[simp] theorem State.draw_pc (s : State) : s.draw.2.pc = s.pc := rfl
@[simp] theorem State.draw_mem (s : State) : s.draw.2.mem = s.mem := rfl
@[simp] theorem State.draw_ioLog (s : State) : s.draw.2.ioLog = s.ioLog := rfl
@[simp] theorem State.draw_ioIn (s : State) : s.draw.2.ioIn = s.ioIn := rfl
@[simp] theorem State.draw_ioMap (s : State) : s.draw.2.ioMap = s.ioMap := rfl
@[simp] theorem State.draw_draws (s : State) : s.draw.2.draws = s.draws + 1 := rfl
@[simp] theorem State.draw_reg (s : State) (i : RegIdx) : s.draw.2.reg i = s.reg i := rfl
@[simp] theorem State.draw_wordAt (s : State) (a : Word) : s.draw.2.wordAt a = s.wordAt a := rfl

/-! ### ioReceive -/
@[simp] theorem State.ioReceive_gpr (s : State) (a : Word) : (s.ioReceive a).2.gpr = s.gpr := by
  unfold State.ioReceive; split <;> rfl
@[simp] theorem State.ioReceive_r15 (s : State) (a : Word) : (s.ioReceive a).2.r15 = s.r15 := by
  unfold State.ioReceive; split <;> rfl
@[simp] theorem State.ioReceive_pc (s : State) (a : Word) : (s.ioReceive a).2.pc = s.pc := by
  unfold State.ioReceive; split <;> rfl
@[simp] theorem State.ioReceive_mem (s : State) (a : Word) : (s.ioReceive a).2.mem = s.mem := by
  unfold State.ioReceive; split <;> rfl
@[simp] theorem State.ioReceive_ioLog (s : State) (a : Word) :
    (s.ioReceive a).2.ioLog = s.ioLog ++ [.read a (s.ioReceive a).1] := by
  unfold State.ioReceive; split <;> rfl
@[simp] theorem State.ioReceive_ioIn (s : State) (a : Word) : (s.ioReceive a).2.ioIn = s.ioIn.tail := by
  unfold State.ioReceive; split <;> simp_all
@[simp] theorem State.ioReceive_ioMap (s : State) (a : Word) :
    (s.ioReceive a).2.ioMap = s.ioMap := by
  unfold State.ioReceive; split <;> rfl
@[simp] theorem State.ioReceive_reg (s : State) (a : Word) (i : RegIdx) :
    (s.ioReceive a).2.reg i = s.reg i := by
  unfold State.reg; simp
@[simp] theorem State.ioReceive_wordAt (s : State) (a b : Word) :
    (s.ioReceive a).2.wordAt b = s.wordAt b := by
  unfold State.wordAt; simp

/-- A lined-up answer is the one an IO read returns, and it is used up. -/
theorem State.ioReceive_of_cons {s : State} {v : Word} {rest : List Word} (h : s.ioIn = v :: rest)
    (a : Word) :
    s.ioReceive a = (v, { s with ioIn := rest, ioLog := s.ioLog ++ [.read a v] }) := by
  unfold State.ioReceive; rw [h]

/-- With no answer lined up the answer is the next free value of the location. -/
theorem State.ioReceive_of_nil {s : State} (h : s.ioIn = []) (a : Word) :
    s.ioReceive a = (Config.ioAnswer s.draws a,
      { s with draws := s.draws + 1, ioLog := s.ioLog ++ [.read a (Config.ioAnswer s.draws a)] }) := by
  unfold State.ioReceive; rw [h]

/-! ### IO accesses -/

/-- An IO read that is answered receives; one that is not hangs. -/
theorem State.ioRead_eq (s : State) (a : Word) :
    s.ioRead a = if s.ioAnswered a = true then .ok (s.ioReceive a)
      else .error (.ioUnanswered s.pc a) := rfl

/-- An IO write that is answered is recorded; one that is not hangs. -/
theorem State.ioWrite_eq (s : State) (a v : Word) :
    s.ioWrite a v = if s.ioAnswered a = true then .ok (s.ioSend a v)
      else .error (.ioUnanswered s.pc a) := rfl

/-- Which IO accesses are answered is a matter of the devices alone. -/
theorem State.ioAnswered_congr {s t : State} (h : t.ioMap = s.ioMap) (a : Word) :
    t.ioAnswered a = s.ioAnswered a := by
  simp only [State.ioAnswered, State.ioDeviceAt, h]

/-- An access is answered unless a silent device stands at its location (log 33). -/
theorem State.ioAnswered_iff {s : State} {a : Word} :
    s.ioAnswered a = true ↔ s.ioDeviceAt a ≠ some .silent := by
  unfold State.ioAnswered
  cases s.ioDeviceAt a with
  | none => simp [Settings.ioWithoutDevice]
  | some d => cases d <;> simp

/-- An access is not answered exactly where a silent device stands at its location. -/
theorem State.ioAnswered_eq_false {s : State} {a : Word} :
    s.ioAnswered a = false ↔ s.ioDeviceAt a = some .silent := by
  rw [← Bool.not_eq_true, State.ioAnswered_iff, not_not]

/-! ### The register file -/

/-- R0 reads as zero. -/
@[simp] theorem State.reg_zero (s : State) : s.reg 0#4 = 0#16 := rfl

/-- R15 reads as the whole of R15. -/
@[simp] theorem State.reg_fifteen (s : State) : s.reg 15#4 = s.r15 := rfl

/-- A write to R0 changes nothing. -/
@[simp] theorem State.setReg_zero (s : State) (v : Word) : s.setReg 0#4 v = s := rfl

/-- A write to R15 replaces the whole of it. -/
theorem State.setReg_fifteen (s : State) (v : Word) : s.setReg 15#4 v = s.setR15 v := rfl

theorem RegIdx.toNat_eq_zero {i : RegIdx} : i.toNat = 0 ↔ i = 0#4 := by
  constructor
  · intro h; exact BitVec.eq_of_toNat_eq (by simpa using h)
  · rintro rfl; rfl

/-- What register `j` reads as after `x[i] <- v`: the whole story of the register file. -/
theorem State.reg_setReg (s : State) (i j : RegIdx) (v : Word) :
    (s.setReg i v).reg j = if j = i then (if i = 0#4 then 0#16 else v) else s.reg j := by
  have hi := i.isLt
  have hj := j.isLt
  by_cases hji : j = i
  · subst hji
    rw [if_pos rfl]
    by_cases h0 : j = 0#4
    · subst h0; rfl
    · have h0' : j.toNat ≠ 0 := fun h => h0 (RegIdx.toNat_eq_zero.1 h)
      rw [if_neg h0]
      by_cases h14 : j.toNat - 1 < 14 <;> simp [State.setReg, State.reg, h0', h14]
  · rw [if_neg hji]
    have hne : j.toNat ≠ i.toNat := fun h => hji (BitVec.eq_of_toNat_eq h)
    by_cases h0 : i.toNat = 0
    · simp [State.setReg, h0]
    · by_cases h14 : i.toNat - 1 < 14
      · simp only [State.setReg, State.reg, h0, h14, dif_pos, if_false]
        split
        · rfl
        · split
          · rw [Vector.getElem_set_ne]; omega
          · rfl
      · simp only [State.setReg, State.reg, h0, h14, dif_neg, if_false, not_false_iff]
        split
        · rfl
        · split
          · rfl
          · omega

/-- A written register other than R0 reads as what was written. -/
theorem State.reg_setReg_same (s : State) {i : RegIdx} (h : i ≠ 0#4) (v : Word) :
    (s.setReg i v).reg i = v := by rw [State.reg_setReg, if_pos rfl, if_neg h]

/-- Every other register reads as before. -/
theorem State.reg_setReg_ne (s : State) {i j : RegIdx} (h : j ≠ i) (v : Word) :
    (s.setReg i v).reg j = s.reg j := by rw [State.reg_setReg, if_neg h]

/-- R15 after a register write. -/
theorem State.setReg_r15 (s : State) (i : RegIdx) (v : Word) :
    (s.setReg i v).r15 = if i = 15#4 then v else s.r15 := by
  have h := State.reg_setReg s i 15#4 v
  rw [State.reg_fifteen, State.reg_fifteen] at h
  rw [h]
  by_cases hi : i = 15#4
  · subst hi; rfl
  · rw [if_neg hi, if_neg (Ne.symm hi)]

/-- The implicit write of R15 leaves every other register. -/
theorem State.reg_setR15 (s : State) (v : Word) (j : RegIdx) :
    (s.setR15 v).reg j = if j = 15#4 then v else s.reg j := by
  rw [← State.setReg_fifteen, State.reg_setReg]; rfl

/-- Only R0, R15 and the numbered register file make up what a register reads as. -/
theorem State.reg_congr {s t : State} (hg : t.gpr = s.gpr) (hr : t.r15 = s.r15) (i : RegIdx) :
    t.reg i = s.reg i := by unfold State.reg; rw [hg, hr]

/-- The two destinations of a two-result instruction are different registers (spec R170). -/
theorem secondReg_ne (rd : RegIdx) : secondReg rd ≠ rd := by
  intro h
  have := congrArg BitVec.toNat h
  have := rd.isLt
  simp [secondReg] at *

/-- What register `j` reads as after both writes of a two-result instruction. -/
theorem State.reg_setPair (s : State) (rd j : RegIdx) (v w : Word) :
    ((s.setReg rd v).setReg (secondReg rd) w).reg j =
      if j = secondReg rd then (if secondReg rd = 0#4 then 0#16 else w)
      else if j = rd then (if rd = 0#4 then 0#16 else v) else s.reg j := by
  rw [State.reg_setReg, State.reg_setReg]

end Sys2Proof.Machine
end

