-- ==== Sys2Proof/Laws/Memory.lean ====
section
/-! SUPPORT. The laws of memory: a read after a write, and that every memory operation keeps the canonical
form. -/

namespace Sys2Proof.Machine

/-- The word just written is the one read. -/
@[simp] theorem Memory.read_write_same (m : Memory) (a : Nat) (v : Word) :
    (Memory.write m a v).read a = some v := by
  induction m with
  | nil => simp [Memory.write, Memory.read]
  | cons c rest ih =>
    obtain ⟨b, w⟩ := c
    simp only [Memory.write]
    split
    · simp [Memory.read]
    · split
      · simp [Memory.read]
      · next hne => simp [Memory.read, Ne.symm hne, ih]

/-- No other location changes. -/
theorem Memory.read_write_ne (m : Memory) {a c : Nat} (h : c ≠ a) (v : Word) :
    (Memory.write m a v).read c = m.read c := by
  induction m with
  | nil => simp [Memory.write, Memory.read, Ne.symm h]
  | cons d rest ih =>
    obtain ⟨b, w⟩ := d
    simp only [Memory.write]
    split
    · simp [Memory.read, Ne.symm h]
    · split
      · next heq => subst heq; simp [Memory.read, Ne.symm h]
      · simp [Memory.read, ih]

/-- A canonical memory above `low` stays one when a word at or above `low` is written. -/
theorem Memory.wfFrom_write {m : Memory} {low a : Nat} (v : Word) (hm : Memory.wfFrom low m = true)
    (hlow : low ≤ a) (ha : a < 2 ^ 16) : Memory.wfFrom low (Memory.write m a v) = true := by
  induction m generalizing low with
  | nil => simp [Memory.write, Memory.wfFrom]; omega
  | cons c rest ih =>
    obtain ⟨b, w⟩ := c
    simp only [Memory.wfFrom, Bool.and_eq_true, decide_eq_true_eq] at hm
    obtain ⟨⟨hb, hb16⟩, hrest⟩ := hm
    simp only [Memory.write]
    split
    · simp only [Memory.wfFrom, Bool.and_eq_true, decide_eq_true_eq]
      exact ⟨⟨hlow, ha⟩, ⟨by omega, hb16⟩, hrest⟩
    · split
      · next heq =>
        subst heq
        simp only [Memory.wfFrom, Bool.and_eq_true, decide_eq_true_eq]
        exact ⟨⟨hlow, ha⟩, hrest⟩
      · simp only [Memory.wfFrom, Bool.and_eq_true, decide_eq_true_eq]
        exact ⟨⟨hb, hb16⟩, ih hrest (by omega)⟩

/-- Writing a word keeps the canonical form. -/
theorem Memory.wf_write {m : Memory} (hm : m.wf = true) (a v : Word) :
    (Memory.write m a.toNat v).wf = true :=
  Memory.wfFrom_write v hm (Nat.zero_le _) a.isLt

/-- The addresses listed after a write are those before and the one written. -/
theorem Memory.mem_fst_write {m : Memory} {a c : Nat} {v : Word}
    (h : c ∈ (Memory.write m a v).map Prod.fst) : c = a ∨ c ∈ m.map Prod.fst := by
  induction m with
  | nil => simpa [Memory.write] using h
  | cons d rest ih =>
    obtain ⟨b, w⟩ := d
    simp only [Memory.write] at h
    split at h
    · simp only [List.map_cons, List.mem_cons] at h ⊢; exact h
    · split at h
      · simp only [List.map_cons, List.mem_cons] at h ⊢
        rcases h with h | h
        · exact .inl h
        · exact .inr (.inr h)
      · simp only [List.map_cons, List.mem_cons] at h ⊢
        rcases h with h | h
        · exact .inr (.inl h)
        · rcases ih h with h | h
          · exact .inl h
          · exact .inr (.inr h)

/-- The word just put is the one at its address. -/
@[simp] theorem State.wordAt_putWord_same (s : State) (a v : Word) :
    (s.putWord a v).wordAt a = some v := Memory.read_write_same _ _ _

/-- Putting a word changes no other address. -/
theorem State.wordAt_putWord_ne (s : State) {a b : Word} (h : b ≠ a) (v : Word) :
    (s.putWord a v).wordAt b = s.wordAt b :=
  Memory.read_write_ne _ (fun hn => h (BitVec.eq_of_toNat_eq hn)) _

/-- With the default `MEM_MAP` every address is mapped (log 5). -/
@[simp] theorem memMapped_all (a : Word) : memMapped a = true := by
  have := a.isLt
  simp [memMapped, Settings.memMap]; omega

/-- A memory read answers the word at the address, or faults where it has no value. -/
theorem State.memRead_eq (s : State) (a : Word) :
    s.memRead a = match s.wordAt a with
      | some v => .ok v
      | none => .error (.unwrittenMemory s.pc a) :=
  (if_pos (memMapped_all a)).trans (by cases s.wordAt a <;> rfl)

/-- A memory read that answers `v` found `v` at the address. -/
theorem State.memRead_ok {s : State} {a v : Word} : s.memRead a = .ok v ↔ s.wordAt a = some v := by
  rw [State.memRead_eq]; cases s.wordAt a <;> simp

/-- A memory write completes and puts the word. -/
@[simp] theorem State.memWrite_eq (s : State) (a v : Word) :
    s.memWrite a v = .ok (s.putWord a v) := by
  unfold State.memWrite; rw [if_pos (memMapped_all a)]

/-- The reset memory is canonical. -/
theorem State.reset_mem_wf : State.reset.mem.wf = true := rfl

end Sys2Proof.Machine
end

