-- ==== Sys2Proof/Laws/Ops.lean ====
section
/-! SUPPORT. What each shared way of ending an instruction can do, said once: if it answers a next state,
what that state is. -/

namespace Sys2Proof.Machine

/-- `finishAt` answers the state with pc at the target. -/
theorem finishAt_eq (t : Word) (s : State) : finishAt t s = .next (s.setPc t) := rfl

/-- `finish` answers the state with pc at the next instruction. -/
theorem finish_eq (s : State) : finish s = .next (s.setPc (s.pc + 1)) := rfl

/-- `finishWith` answers the state with `rd` written and pc at the next instruction. -/
theorem finishWith_eq (rd : RegIdx) (v : Word) (s : State) :
    finishWith rd v s = .next ((s.setReg rd v).setPc (s.pc + 1)) := by
  simp [finishWith, finish_eq]

/-- `finishWithPair` answers the state with both destinations written and pc at the next instruction. -/
theorem finishWithPair_eq (rd : RegIdx) (v w : Word) (s : State) :
    finishWithPair rd v w s =
      .next (((s.setReg rd v).setReg (secondReg rd) w).setPc (s.pc + 1)) := by
  simp [finishWithPair, finish_eq]

/-- `finishWithDrawnPair` writes two values, whatever they are, and counts two draws. -/
theorem finishWithDrawnPair_eq (rd : RegIdx) (s : State) :
    ∃ v w, finishWithDrawnPair rd s =
      .next ((((s.draw.2.draw.2).setReg rd v).setReg (secondReg rd) w).setPc (s.pc + 1)) :=
  ⟨s.draw.1, s.draw.2.draw.1, by
    simp only [finishWithDrawnPair, finishWithPair_eq, State.draw_pc]⟩

/-- `finishWithDrawn` writes one value, whatever it is, and counts one draw. -/
theorem finishWithDrawn_eq (rd : RegIdx) (s : State) :
    ∃ v, finishWithDrawn rd s = .next ((s.draw.2.setReg rd v).setPc (s.pc + 1)) :=
  ⟨s.draw.1, by simp only [finishWithDrawn, finishWith_eq, State.draw_pc]⟩

/-- With the default settings a division without a result completes with draws (log 8). -/
theorem finishDivide_drawn {rd : RegIdx} {d : Division} {s : State} (h : ∀ q r, d ≠ .result q r) :
    finishDivide rd d s = finishWithDrawnPair rd s := by
  cases d with
  | result q r => exact absurd rfl (h q r)
  | byZero => rfl
  | overflow => rfl

/-- With the default settings a quotient without a result completes with a draw (log 8). -/
theorem finishQuotient_drawn {rd : RegIdx} {d : Division} {s : State} (h : ∀ q r, d ≠ .result q r) :
    finishQuotient rd d s = finishWithDrawn rd s := by
  cases d with
  | result q r => exact absurd rfl (h q r)
  | byZero => rfl
  | overflow => rfl

/-- `finishDivide` answers some state with two values written, and it draws only where the division has
no result. -/
theorem finishDivide_eq (rd : RegIdx) (d : Division) (s : State) :
    ∃ u v w, (u = s ∨ u = s.draw.2.draw.2) ∧ (∀ q r, d = .result q r → u = s ∧ v = q ∧ w = r) ∧
      finishDivide rd d s =
        .next (((u.setReg rd v).setReg (secondReg rd) w).setPc (s.pc + 1)) := by
  by_cases hd : ∀ q r, d ≠ .result q r
  · obtain ⟨v, w, h⟩ := finishWithDrawnPair_eq rd s
    exact ⟨_, v, w, .inr rfl, fun q r e => absurd e (hd q r), (finishDivide_drawn hd).trans h⟩
  · push Not at hd
    obtain ⟨q, r, rfl⟩ := hd
    exact ⟨s, q, r, .inl rfl, by simp, finishWithPair_eq rd q r s⟩

/-- `finishQuotient` answers some state with one value written, and it draws only where the division has
no result. -/
theorem finishQuotient_eq (rd : RegIdx) (d : Division) (s : State) :
    ∃ u v, (u = s ∨ u = s.draw.2) ∧ (∀ q r, d = .result q r → u = s ∧ v = q) ∧
      finishQuotient rd d s = .next ((u.setReg rd v).setPc (s.pc + 1)) := by
  by_cases hd : ∀ q r, d ≠ .result q r
  · obtain ⟨v, h⟩ := finishWithDrawn_eq rd s
    exact ⟨_, v, .inr rfl, fun q r e => absurd e (hd q r), (finishQuotient_drawn hd).trans h⟩
  · push Not at hd
    obtain ⟨q, r, rfl⟩ := hd
    exact ⟨s, q, .inl rfl, by simp, finishWith_eq rd q s⟩

/-- A branch faults on a reserved condition, jumps where its condition holds and else falls through. -/
theorem branchTo_eq (fib : BitVec 5) (target : Word) (s : State) :
    branchTo fib target s = match condOfFib fib with
      | none => .fault (.reservedCondition s.pc)
      | some c => .next (s.setPc (if condHolds s.r15 c = true then target else s.pc + 1)) := by
  unfold branchTo
  cases condOfFib fib with
  | none => rfl
  | some c => dsimp only; split <;> rfl

/-- LDRio answers the state that received with `rd` written, or hangs. -/
theorem execLdrIo_eq (rd rs1 : RegIdx) (s : State) :
    execLdrIo rd rs1 s = if s.ioAnswered (s.reg rs1) = true then
      .next (((s.ioReceive (s.reg rs1)).2.setReg rd (s.ioReceive (s.reg rs1)).1).setPc (s.pc + 1))
      else .fault (.ioUnanswered s.pc (s.reg rs1)) := by
  unfold execLdrIo; rw [State.ioRead_eq]
  split <;> rename_i h <;> split at h <;> cases h
  · rw [finishWith_eq, State.ioReceive_pc, if_pos ‹_›]
  · rw [if_neg ‹_›]; rfl

/-- STRio answers the state with the event recorded, or hangs. -/
theorem execStrIo_eq (rd rs1 : RegIdx) (s : State) :
    execStrIo rd rs1 s = if s.ioAnswered (s.reg rd) = true then
      .next ((s.ioSend (s.reg rd) (s.reg rs1)).setPc (s.pc + 1))
      else .fault (.ioUnanswered s.pc (s.reg rd)) := by
  unfold execStrIo; rw [State.ioWrite_eq]
  split <;> rename_i h <;> split at h <;> cases h
  · rw [finish_eq, State.ioSend_pc, if_pos ‹_›]
  · rw [if_neg ‹_›]; rfl

/-- With `INTERRUPTS` none a step runs an instruction (log 23). -/
theorem step_eq (s : State) : step s = runInstruction s := rfl

/-- A register write with pc moved to `p` changes only its destination. -/
theorem ChangesOnly.of_setReg (s : State) (rd : RegIdx) (v p : Word) :
    ChangesOnly [rd] p s ((s.setReg rd v).setPc p) where
  regs r hr := by
    rw [State.setPc_reg, State.reg_setReg_ne]; simpa using hr
  pc := rfl
  memory a := by simp
  io := by simp [SameIo]

/-- Both register writes with pc moved to `p` change only the two destinations. -/
theorem ChangesOnly.of_setPair (s : State) (rd : RegIdx) (v w p : Word) :
    ChangesOnly [rd, secondReg rd] p s (((s.setReg rd v).setReg (secondReg rd) w).setPc p) where
  regs r hr := by
    simp only [List.mem_cons, List.not_mem_nil, or_false, not_or] at hr
    rw [State.setPc_reg, State.reg_setReg_ne _ hr.2, State.reg_setReg_ne _ hr.1]
  pc := rfl
  memory a := by simp
  io := by simp [SameIo]

/-- Moving pc changes nothing else. -/
theorem ChangesOnly.of_setPc (s : State) (p : Word) : ChangesOnly [] p s (s.setPc p) where
  regs _ _ := rfl
  pc := rfl
  memory _ := rfl
  io := ⟨rfl, rfl, rfl⟩

/-- The destination of a register write reads as R0 or the value written. -/
theorem reg_setReg_writtenTo (s : State) (rd : RegIdx) (v : Word) :
    (s.setReg rd v).reg rd = writtenTo rd v := by
  rw [State.reg_setReg, if_pos rfl]; rfl

end Sys2Proof.Machine
end

