-- ==== Sys2Proof/Laws/PerInstr.lean ====
section
/-! SUPPORT. The family RowPattern: the word of an instruction lies in the row of spec/opcode_table.json
that its constructor stands for. -/

namespace Sys2Proof.Laws

/-! ### What a row's mask keeps of each format -/
section
variable (rd rs1 rs2 imm4 op : BitVec 4) (imm8 : BitVec 8) (imm6 top6 : BitVec 6) (v5 : BitVec 5)
variable (top7 : BitVec 7) (top8 : BitVec 8)

/-- A mask of ones from bit `n` up keeps what a shift right and back by `n` keeps. -/
theorem and_mask_eq {w k : Word} {n : Nat}
    (hk : ∀ j, j < 16 → k.getLsbD j = decide (n ≤ j)) :
    w &&& k = (w >>> n) <<< n := by
  ext j hj
  have h := hk j hj
  simp only [BitVec.getElem_and, BitVec.getElem_shiftLeft]
  grind

theorem encodeR3_and : encodeR3 op rd rs1 rs2 &&& 0xF000#16 = op ++ 0#12 := by
  rw [and_mask_eq (n := 12) (by decide)]
  ext k hk; simp [encodeR3_eq]; grind
theorem encodeI8_and : encodeI8 op rd imm8 &&& 0xF000#16 = op ++ 0#12 := by
  rw [and_mask_eq (n := 12) (by decide)]
  ext k hk; simp [encodeI8]; grind
theorem encodeRI4_and : encodeRI4 op rd rs1 imm4 &&& 0xF000#16 = op ++ 0#12 := by
  rw [and_mask_eq (n := 12) (by decide)]
  ext k hk; simp [encodeRI4]; grind
theorem encodeX2_and : encodeX2 top8 rd rs1 &&& 0xFE00#16 = top8.extractLsb' 1 7 ++ 0#9 := by
  rw [and_mask_eq (n := 9) (by decide)]
  ext k hk; simp [encodeX2]; grind
theorem encodeX2c_and : encodeX2 top8 rd rs1 &&& 0xFF00#16 = top8 ++ 0#8 := by
  rw [and_mask_eq (n := 8) (by decide)]
  ext k hk; simp [encodeX2]; grind
theorem encodeI5_and : encodeI5 top7 rd v5 &&& 0xFE00#16 = top7 ++ 0#9 := by
  rw [and_mask_eq (n := 9) (by decide)]
  ext k hk; simp [encodeI5]; grind
theorem encodeJ6_and : encodeJ6 top6 rd imm6 &&& 0xFC00#16 = top6 ++ 0#10 := by
  rw [and_mask_eq (n := 10) (by decide)]
  ext k hk; simp [encodeJ6]; grind
end

/-- The fixed bits of the instruction's word are those of its row. -/
def RowPattern.Statement (i : Instr) : Prop := encode i &&& i.rowMask = i.rowMatch

theorem RowPattern.reserved0000 :
    RowPattern.Statement (.reserved0000) := rfl
theorem RowPattern.reserved0001 :
    RowPattern.Statement (.reserved0001) := rfl
theorem RowPattern.ldr (rd rs1 : RegIdx) :
    RowPattern.Statement (.ldr rd rs1) := (encodeX2_and ..).trans rfl
theorem RowPattern.ldrIo (rd rs1 : RegIdx) :
    RowPattern.Statement (.ldrIo rd rs1) := (encodeX2_and ..).trans rfl
theorem RowPattern.str (rd rs1 : RegIdx) :
    RowPattern.Statement (.str rd rs1) := (encodeX2_and ..).trans rfl
theorem RowPattern.strIo (rd rs1 : RegIdx) :
    RowPattern.Statement (.strIo rd rs1) := (encodeX2_and ..).trans rfl
theorem RowPattern.jmrS0 (rd rs1 : RegIdx) :
    RowPattern.Statement (.jmrS0 rd rs1) := (encodeX2_and ..).trans rfl
theorem RowPattern.jmrS1 (rd rs1 : RegIdx) :
    RowPattern.Statement (.jmrS1 rd rs1) := (encodeX2_and ..).trans rfl
theorem RowPattern.jmi (rd : RegIdx) (imm6 : BitVec 6) :
    RowPattern.Statement (.jmi rd imm6) := (encodeJ6_and ..).trans rfl
theorem RowPattern.anr (rd rs1 rs2 : RegIdx) :
    RowPattern.Statement (.anr rd rs1 rs2) := (encodeR3_and ..).trans rfl
theorem RowPattern.ani (rd : RegIdx) (imm8 : BitVec 8) :
    RowPattern.Statement (.ani rd imm8) := (encodeI8_and ..).trans rfl
theorem RowPattern.anir (rd rs1 : RegIdx) (imm4 : BitVec 4) :
    RowPattern.Statement (.anir rd rs1 imm4) := (encodeRI4_and ..).trans rfl
theorem RowPattern.msi (rd : RegIdx) (imm8 : BitVec 8) :
    RowPattern.Statement (.msi rd imm8) := (encodeI8_and ..).trans rfl
theorem RowPattern.msiShadow (rd : RegIdx) (imm8 : BitVec 8) :
    RowPattern.Statement (.msiShadow rd imm8) := (encodeI8_and ..).trans rfl
theorem RowPattern.mhi (rd : RegIdx) (imm8 : BitVec 8) :
    RowPattern.Statement (.mhi rd imm8) := (encodeI8_and ..).trans rfl
theorem RowPattern.slr (rd rs1 rs2 : RegIdx) :
    RowPattern.Statement (.slr rd rs1 rs2) := (encodeR3_and ..).trans rfl
theorem RowPattern.sar (rd rs1 rs2 : RegIdx) :
    RowPattern.Statement (.sar rd rs1 rs2) := (encodeR3_and ..).trans rfl
theorem RowPattern.adr (rd rs1 rs2 : RegIdx) :
    RowPattern.Statement (.adr rd rs1 rs2) := (encodeR3_and ..).trans rfl
theorem RowPattern.sur (rd rs1 rs2 : RegIdx) :
    RowPattern.Statement (.sur rd rs1 rs2) := (encodeR3_and ..).trans rfl
theorem RowPattern.adi (rd : RegIdx) (imm8 : BitVec 8) :
    RowPattern.Statement (.adi rd imm8) := (encodeI8_and ..).trans rfl
theorem RowPattern.adir (rd rs1 : RegIdx) (imm4 : BitVec 4) :
    RowPattern.Statement (.adir rd rs1 imm4) := (encodeRI4_and ..).trans rfl
theorem RowPattern.sui (rd : RegIdx) (imm8 : BitVec 8) :
    RowPattern.Statement (.sui rd imm8) := (encodeI8_and ..).trans rfl
theorem RowPattern.suir (rd rs1 : RegIdx) (imm4 : BitVec 4) :
    RowPattern.Statement (.suir rd rs1 imm4) := (encodeRI4_and ..).trans rfl
theorem RowPattern.mul (rd rs1 rs2 : RegIdx) :
    RowPattern.Statement (.mul rd rs1 rs2) := (encodeR3_and ..).trans rfl
theorem RowPattern.muls (rd rs1 rs2 : RegIdx) :
    RowPattern.Statement (.muls rd rs1 rs2) := (encodeR3_and ..).trans rfl
theorem RowPattern.mull (rd rs1 rs2 : RegIdx) :
    RowPattern.Statement (.mull rd rs1 rs2) := (encodeR3_and ..).trans rfl
theorem RowPattern.div (rd rs1 rs2 : RegIdx) :
    RowPattern.Statement (.div rd rs1 rs2) := (encodeR3_and ..).trans rfl
theorem RowPattern.divs (rd rs1 rs2 : RegIdx) :
    RowPattern.Statement (.divs rd rs1 rs2) := (encodeR3_and ..).trans rfl
theorem RowPattern.divq (rd rs1 rs2 : RegIdx) :
    RowPattern.Statement (.divq rd rs1 rs2) := (encodeR3_and ..).trans rfl
theorem RowPattern.cmr (rs1 rd : RegIdx) :
    RowPattern.Statement (.cmr rs1 rd) := (encodeX2_and ..).trans rfl
theorem RowPattern.cmrs (rs1 rd : RegIdx) :
    RowPattern.Statement (.cmrs rs1 rd) := (encodeX2_and ..).trans rfl
theorem RowPattern.cmi (imm5 : BitVec 5) (rd : RegIdx) :
    RowPattern.Statement (.cmi imm5 rd) := (encodeI5_and ..).trans rfl
theorem RowPattern.cmis (imm5 : BitVec 5) (rd : RegIdx) :
    RowPattern.Statement (.cmis imm5 rd) := (encodeI5_and ..).trans rfl
theorem RowPattern.brc (fib : BitVec 5) (rd : RegIdx) :
    RowPattern.Statement (.brc fib rd) := (encodeI5_and ..).trans rfl
theorem RowPattern.brr (fib : BitVec 5) (rd : RegIdx) :
    RowPattern.Statement (.brr fib rd) := (encodeI5_and ..).trans rfl
theorem RowPattern.shiLogical (rd : RegIdx) (shim : BitVec 5) :
    RowPattern.Statement (.shiLogical rd shim) := (encodeI5_and ..).trans rfl
theorem RowPattern.shiArith (rd : RegIdx) (shim : BitVec 5) :
    RowPattern.Statement (.shiArith rd shim) := (encodeI5_and ..).trans rfl
theorem RowPattern.ntrOnes (rd rs1 : RegIdx) :
    RowPattern.Statement (.ntrOnes rd rs1) := (encodeX2c_and ..).trans rfl
theorem RowPattern.ntrTwos (rd rs1 : RegIdx) :
    RowPattern.Statement (.ntrTwos rd rs1) := (encodeX2c_and ..).trans rfl
theorem RowPattern.ntdOnes (rd : RegIdx) :
    RowPattern.Statement (.ntdOnes rd) := (encodeX2c_and ..).trans rfl
theorem RowPattern.ntdTwos (rd : RegIdx) :
    RowPattern.Statement (.ntdTwos rd) := (encodeX2c_and ..).trans rfl

end Sys2Proof.Laws
end

