-- ==== Sys2Proof/Laws/Values.lean ====
section
/-! SUPPORT. The values instructions compute, bit by bit or as numbers: what a compare leaves in R15,
shifts, the halves of a product, quotients. -/

namespace Sys2Proof.Machine

/-! ### R15 after a compare -/

/-- Bit 5 is G, bit 4 is E, every other bit of R15 is kept. -/
theorem withCompareFlags_bit (r15 : Word) (g e : Bool) (k : Nat) :
    (withCompareFlags r15 g e).getLsbD k =
      if k = 5 then g else if k = 4 then e else r15.getLsbD k := by
  simp only [withCompareFlags, BitVec.getLsbD_append, BitVec.getLsbD_extractLsb',
    BitVec.getLsbD_ofBool]
  by_cases h16 : k < 16
  · interval_cases k <;> simp
  · have := BitVec.getLsbD_of_ge r15 k (by omega)
    grind

@[simp] theorem flagG_withCompareFlags (r15 : Word) (g e : Bool) :
    flagG (withCompareFlags r15 g e) = g := by
  simp only [flagG, withCompareFlags_bit, if_true]

@[simp] theorem flagE_withCompareFlags (r15 : Word) (g e : Bool) :
    flagE (withCompareFlags r15 g e) = e := by
  simp only [flagE, withCompareFlags_bit]; rfl

/-- Ending an instruction with R15's compare flags written sets them and changes nothing else. -/
theorem SetsFlags.of_setR15 (s : State) (g e : Bool) :
    SetsFlags (g = true) (e = true) s
      ((s.setR15 (withCompareFlags s.r15 g e)).setPc (s.pc + 1)) where
  g := by simp
  e := by simp
  bits k h5 h4 := by simp [withCompareFlags_bit, h5, h4]
  rest :=
    { regs := fun r hr => by
        rw [State.setPc_reg, State.reg_setR15, if_neg (by simpa using hr)]
      pc := rfl
      memory := fun _ => rfl
      io := ⟨rfl, rfl, rfl⟩ }

/-! ### Shifts -/

/-- A left shift by `n` moves bit `k - n` to bit `k`; zeros enter at bit 0. -/
theorem shift_left_bit (v : Word) (n : Nat) (kind : ShiftKind) (k : Nat) :
    (shift v (.left n) kind).getLsbD k = (decide (k < 16) && decide (n ≤ k) && v.getLsbD (k - n)) := by
  simp [shift, BitVec.getLsbD_shiftLeft]; grind

/-- A logical right shift by `n` moves bit `k + n` to bit `k`; zeros enter at bit 15. -/
theorem shift_right_logical_bit (v : Word) (n k : Nat) :
    (shift v (.right n) .logical).getLsbD k = v.getLsbD (n + k) := by
  simp [shift]

/-- An arithmetic right shift by `n` moves bit `k + n` to bit `k`; copies of bit 15 enter at the top. -/
theorem shift_right_arithmetic_bit (v : Word) (n k : Nat) (hk : k < 16) :
    (shift v (.right n) .arithmetic).getLsbD k =
      if n + k < 16 then v.getLsbD (n + k) else v.getLsbD 15 := by
  simp only [shift, BitVec.getLsbD_sshiftRight, BitVec.msb_eq_getLsbD_last]
  grind

/-- A sign-and-magnitude amount written as its sign and its magnitude. -/
theorem signMagnitudeAmount_append (sign : BitVec 1) (n : BitVec 4) :
    signMagnitudeAmount (sign ++ n) =
      if sign = 1#1 then .left n.toNat else .right n.toNat := by
  have h : (sign ++ n).extractLsb' 0 4 = n := by ext k hk; simp; grind
  have h4 : (sign ++ n).getLsbD 4 = sign.getLsbD 0 := by simp only [BitVec.getLsbD_append]; simp
  have hs : sign = 0#1 ∨ sign = 1#1 := by have := sign.isLt; bv_omega
  unfold signMagnitudeAmount
  rw [h, h4]
  rcases hs with rfl | rfl <;> rfl

/-! ### Products -/

/-- The low half of the unsigned product, as a number. -/
theorem lowHalf_unsignedProduct (a b : Word) :
    lowHalf (unsignedProduct a b) = BitVec.ofNat 16 (a.toNat * b.toNat) := by
  apply BitVec.eq_of_toNat_eq
  simp [lowHalf, unsignedProduct, BitVec.extractLsb'_toNat]

/-- The high half of the unsigned product, as a number. -/
theorem highHalf_unsignedProduct (a b : Word) :
    highHalf (unsignedProduct a b) = BitVec.ofNat 16 (a.toNat * b.toNat / 65536) := by
  have ha := a.isLt
  have hb := b.isLt
  have hab : a.toNat * b.toNat < 2 ^ 32 := by
    calc a.toNat * b.toNat < 2 ^ 16 * 2 ^ 16 := Nat.mul_lt_mul'' ha hb
      _ = 2 ^ 32 := by decide
  apply BitVec.eq_of_toNat_eq
  simp [highHalf, unsignedProduct, BitVec.extractLsb'_toNat, Nat.shiftRight_eq_div_pow]
  omega

/-- The low half of the signed product is that of the unsigned one (spec R172, R174). -/
theorem lowHalf_signedProduct (a b : Word) :
    lowHalf (signedProduct a b) = BitVec.ofInt 16 (a.toInt * b.toInt) := by
  apply BitVec.eq_of_toNat_eq
  simp only [lowHalf, signedProduct, BitVec.extractLsb'_toNat, BitVec.toNat_ofInt,
    Nat.shiftRight_zero]
  omega

/-- The high half of the signed product, as a number. -/
theorem highHalf_signedProduct (a b : Word) :
    highHalf (signedProduct a b) = BitVec.ofInt 16 (a.toInt * b.toInt / 65536) := by
  apply BitVec.eq_of_toNat_eq
  simp only [highHalf, signedProduct, BitVec.extractLsb'_toNat, BitVec.toNat_ofInt,
    Nat.shiftRight_eq_div_pow]
  omega

/-! ### Quotients -/

/-- Where the unsigned division has a result. -/
theorem unsignedDivide_some {a b : Word} (h : b ≠ 0#16) :
    unsignedDivide a b =
      .result (BitVec.ofNat 16 (a.toNat / b.toNat)) (BitVec.ofNat 16 (a.toNat % b.toNat)) := by
  unfold unsignedDivide; rw [if_neg h]

/-- Where the signed division has a result. -/
theorem signedDivide_some {a b : Word} (h : b ≠ 0#16) (ho : ¬(a.toInt = -32768 ∧ b.toInt = -1)) :
    signedDivide a b = .result (BitVec.ofInt 16 (Int.tdiv a.toInt b.toInt))
      (BitVec.ofInt 16 (a.toInt - Int.tdiv a.toInt b.toInt * b.toInt)) := by
  unfold signedDivide; rw [if_neg h, if_neg ho]

end Sys2Proof.Machine
end

