-- ==== Sys2Proof/Tests/Slice0.lean ====
section
/-! SUPPORT. Tests. The words and the results are those of spec/95_test_vectors.md (parts 1 and 2) and of the
Example lines of the rules; none is the model's own answer. After them, for each obligation with hypotheses,
a state and operands that meet the hypotheses. -/

namespace Sys2Proof.Tests

open Sys2Proof Sys2Proof.Machine

/-! ### Small states -/

/-- A state after reset but for R15, pc, memory and the registers listed. -/
def start (r15 pc : Word) (mem : Memory) (regs : List (RegIdx × Word)) : State :=
  regs.foldl (fun s p => s.setReg p.1 p.2) { State.reset with r15 := r15, pc := pc, mem := mem }

/-- The vectors' usual state: the word stands at pc = 0x0100. -/
def at100 (r15 word : Word) (regs : List (RegIdx × Word)) : State :=
  start r15 0x0100#16 [(0x0100, word)] regs

/-- The next state, if there is one. -/
def after : Result → Option State
  | .next t => some t
  | _ => none

/-- The fault, if it is one. -/
def faultOf : Result → Option Fault
  | .fault f => some f
  | _ => none

/-- The refusal, if it is one. -/
def refusalOf : Result → Option Refusal
  | .refused r => some r
  | _ => none

/-- The state with a device that never answers at the IO locations 0x0010 to 0x0012. -/
def withSilent (s : State) : State := { s with ioMap := [⟨⟨0x0010, 0x0012⟩, .silent⟩] }

/-- One register and pc after one step. -/
def gives (s : State) (r : RegIdx) : Option (Word × Word) :=
  (after (step s)).map fun t => (t.reg r, t.pc)

/-- Two registers after one step. -/
def gives2 (s : State) (r q : RegIdx) : Option (Word × Word) :=
  (after (step s)).map fun t => (t.reg r, t.reg q)

/-! ### WellFormed: an ill-formed term for each check -/

theorem test_wellFormed_accepts : (Instr.brc 0b00101#5 2).wellFormed = true := by decide
theorem test_wellFormed_refuses_opcode_0000 : Instr.reserved0000.wellFormed = false := by decide
theorem test_wellFormed_refuses_opcode_0001 : Instr.reserved0001.wellFormed = false := by decide
theorem test_wellFormed_refuses_condition_110 : (Instr.brc 0b00110#5 2).wellFormed = false := by decide
theorem test_wellFormed_refuses_condition_111 : (Instr.brr 0b11111#5 2).wellFormed = false := by decide
theorem test_ignoredFields_refuses_jmr_rd : (Instr.jmrS0 3 2).ignoredFieldsZero = false := by decide
theorem test_ignoredFields_refuses_fib_high : (Instr.brc 0b11001#5 2).ignoredFieldsZero = false := by decide

/-! ### Decoding: every constructor from a word of 95_test_vectors.md parts 1 and 2.10 -/

theorem test_decode_reserved :
    decode 0x0000#16 0x0000#16 = .ok .reserved0000 ∧
    decode 0x0000#16 0x1FFF#16 = .ok .reserved0001 := by decide

theorem test_decode_transfers :
    decode 0x0000#16 0x2023#16 = .ok (.ldr 3 2) ∧
    decode 0x0000#16 0x2223#16 = .ok (.ldrIo 3 2) ∧
    decode 0x0000#16 0x2423#16 = .ok (.str 3 2) ∧
    decode 0x0000#16 0x2623#16 = .ok (.strIo 3 2) ∧
    decode 0x0000#16 0x2123#16 = .ok (.ldr 3 2) := by decide

theorem test_decode_jumps :
    decode 0x0000#16 0x2823#16 = .ok (.jmrS0 3 2) ∧
    decode 0x0000#16 0x2A23#16 = .ok (.jmrS1 3 2) ∧
    decode 0x0000#16 0x2E03#16 = .ok (.jmi 3 0b100000#6) ∧
    decode 0x0000#16 0x2FC3#16 = .ok (.jmi 3 0b111100#6) ∧
    decode 0x0000#16 0x2BFF#16 = .ok (.jmrS1 15 15) := by decide

theorem test_decode_branches :
    decode 0x0000#16 0xF412#16 = .ok (.brc 0b00001#5 2) ∧
    decode 0x0000#16 0xF592#16 = .ok (.brc 0b11001#5 2) ∧
    decode 0x0000#16 0xF612#16 = .ok (.brr 0b00001#5 2) := by decide

theorem test_decode_compares :
    decode 0x0000#16 0xF032#16 = .ok (.cmr 3 2) ∧
    decode 0x0400#16 0xF032#16 = .ok (.cmrs 3 2) ∧
    decode 0x0000#16 0xF3E2#16 = .ok (.cmi 0b11110#5 2) ∧
    decode 0x0400#16 0xF3E2#16 = .ok (.cmis 0b11110#5 2) ∧
    decode 0x0000#16 0xF132#16 = .ok (.cmr 3 2) := by decide

theorem test_decode_logic_and_moves :
    decode 0x0000#16 0x3235#16 = .ok (.anr 5 3 2) ∧
    decode 0x0000#16 0x4FA5#16 = .ok (.ani 5 0xFA#8) ∧
    decode 0x8000#16 0x4215#16 = .ok (.anir 5 1 2) ∧
    decode 0x0000#16 0x5645#16 = .ok (.msi 5 100#8) ∧
    decode 0x4000#16 0x5645#16 = .ok (.msiShadow 5 100#8) ∧
    decode 0xFC00#16 0x6645#16 = .ok (.mhi 5 100#8) := by decide

theorem test_decode_shifts :
    decode 0x0000#16 0x7325#16 = .ok (.slr 5 2 3) ∧
    decode 0x0000#16 0x8325#16 = .ok (.sar 5 2 3) ∧
    decode 0x0000#16 0xF935#16 = .ok (.shiLogical 5 0b10011#5) ∧
    decode 0x0000#16 0xFA35#16 = .ok (.shiArith 5 0b00011#5) := by decide

theorem test_decode_add_and_subtract :
    decode 0x0000#16 0x9325#16 = .ok (.adr 5 2 3) ∧
    decode 0x0000#16 0xA325#16 = .ok (.sur 5 2 3) ∧
    decode 0x0000#16 0xB965#16 = .ok (.adi 5 0x96#8) ∧
    decode 0x8000#16 0xB215#16 = .ok (.adir 5 1 2) ∧
    decode 0x0000#16 0xC965#16 = .ok (.sui 5 0x96#8) ∧
    decode 0x8000#16 0xC215#16 = .ok (.suir 5 1 2) := by decide

theorem test_decode_multiply :
    decode 0x0000#16 0xD235#16 = .ok (.mul 5 3 2) ∧
    decode 0x1000#16 0xD235#16 = .ok (.muls 5 3 2) ∧
    decode 0x2000#16 0xD235#16 = .ok (.mull 5 3 2) ∧
    decode 0x3000#16 0xD235#16 = .ok (.mull 5 3 2) := by decide

theorem test_decode_divide :
    decode 0x0000#16 0xE235#16 = .ok (.div 5 3 2) ∧
    decode 0x1000#16 0xE235#16 = .ok (.divs 5 3 2) ∧
    decode 0x0800#16 0xE235#16 = .ok (.divq 5 3 2) ∧
    decode 0x1800#16 0xE235#16 = .ok (.divq 5 3 2) := by decide

theorem test_decode_complements :
    decode 0x0000#16 0xFC25#16 = .ok (.ntrOnes 5 2) ∧
    decode 0x0000#16 0xFD25#16 = .ok (.ntrTwos 5 2) ∧
    decode 0x0000#16 0xFE05#16 = .ok (.ntdOnes 5) ∧
    decode 0x0000#16 0xFF05#16 = .ok (.ntdTwos 5) ∧
    decode 0x0000#16 0xFFF5#16 = .ok (.ntdTwos 5) := by decide

/-- The first word of an instruction as the table numbers its bits (a 16-bit word). -/
theorem test_decodeTableWord : decodeTableWord 16 0xA325 = some (.sur 5 2 3) := by decide

/-- The word placed for the fetch runs as the first instruction after reset (0x5645 gives x[5] = 0x0064). -/
theorem test_withFetchWord_runs_first :
    gives (State.reset.withFetchWord 16 0x5645) 5 = some (0x0064#16, 0x0001#16) := by decide

/-! ### Results: rows of 95_test_vectors.md part 2 -/

theorem test_reserved0000 :
    faultOf (step (at100 0 0x0000 [])) = some (.reservedOpcode 0x0100) := by decide
theorem test_reserved0001 :
    faultOf (step (at100 0 0x1FFF [])) = some (.reservedOpcode 0x0100) := by decide
theorem test_ldr :
    gives (start 0 0x0100 [(0x0100, 0x2023), (0x0300, 0xBEEF)] [(2, 0x0300)]) 3 =
      some (0xBEEF, 0x0101) := by decide
theorem test_ldr_no_value :
    faultOf (step (at100 0 0x2023 [(2, 0x0300)])) = some (.unwrittenMemory 0x0100 0x0300) := by decide
theorem test_ldrIo :
    gives { start 0 0x0100 [(0x0010, 0x5555), (0x0100, 0x2223)] [(2, 0x0010)] with ioIn := [0x00FF] } 3 =
      some (0x00FF, 0x0101) := by decide
theorem test_ldrIo_recorded :
    (after (step { at100 0 0x2223 [(2, 0x0010)] with ioIn := [0x00FF] })).map State.ioLog =
      some [.read 0x0010 0x00FF] ∧
    faultOf (step (withSilent (at100 0 0x2223 [(2, 0x0010)]))) = some (.ioUnanswered 0x0100 0x0010) := by
  decide
theorem test_str :
    (after (step (at100 0 0x2423 [(3, 0x0200), (2, 0x1234)]))).map (fun t => (t.mem, t.pc)) =
      some ([(0x0100, 0x2423), (0x0200, 0x1234)], 0x0101) := by decide
theorem test_str_r0_data :
    (after (step (start 0 0x0100 [(0x0100, 0x2403), (0x0200, 0x7777)] [(3, 0x0200)]))).map
      (fun t => t.wordAt 0x0200) = some (some 0x0000) := by decide
theorem test_strIo :
    (after (step (start 0 0x0100 [(0x0001, 0x9999), (0x0100, 0x2623)] [(3, 0x0001), (2, 0x0041)]))).map
      (fun t => (t.ioLog, t.wordAt 0x0001)) = some ([.write 0x0001 0x0041], some 0x9999) := by decide
theorem test_strIo_silent_device :
    faultOf (step (withSilent (at100 0 0x2623 [(3, 0x0012), (2, 0x0041)]))) =
      some (.ioUnanswered 0x0100 0x0012) := by decide

theorem test_jmrS1_same_register :
    gives (start 0x0000 0x0010 [(0x0010, 0x2A22)] [(2, 0x0005)]) 2 = some (0x0011, 0x0015) := by decide
theorem test_jmrS1_backward :
    gives (start 0x0000 0x0010 [(0x0010, 0x2A23)] [(2, 0xFFFB)]) 3 = some (0x0011, 0x000B) := by decide
theorem test_jmrS0 :
    gives (start 0x0000 0x0010 [(0x0010, 0x2823)] [(2, 0x0005), (3, 0x7777)]) 3 = some (0x7777, 0x0015) := by decide
theorem test_jmi_minus_32 :
    gives (start 0x0000 0x0040 [(0x0040, 0x2E03)] []) 3 = some (0x0041, 0x0020) := by decide
theorem test_jmi_31 :
    gives (start 0x0000 0x0040 [(0x0040, 0x2DF3)] []) 3 = some (0x0041, 0x005F) := by decide
theorem test_brc_lt :
    gives (at100 0x0000 0xF412 [(2, 0x0300)]) 2 = some (0x0300, 0x0300) ∧
    gives (at100 0x0020 0xF412 [(2, 0x0300)]) 2 = some (0x0300, 0x0101) := by decide
theorem test_brr_lt_taken :
    gives (start 0x0000 0x0007 [(0x0007, 0xF612)] [(2, 0xFFFD)]) 2 = some (0xFFFD, 0x0004) := by decide
theorem test_brc_reserved_condition :
    faultOf (step (at100 0x0010 0xF462 [(2, 0x0300)])) = some (.reservedCondition 0x0100) := by decide
theorem test_brr_le_wraps :
    gives (start 0x0010 0xFFFE [(0xFFFE, 0xF642)] [(2, 0x0003)]) 2 = some (0x0003, 0x0001) := by decide
theorem test_cmr_keeps_other_bits :
    gives (at100 0xFBFF 0xF032 [(3, 0x0005), (2, 0x0007)]) 15 = some (0xFBCF, 0x0101) := by decide
theorem test_cmr_unsigned :
    gives (at100 0x0000 0xF032 [(3, 0xFFFF), (2, 0x0001)]) 15 = some (0x0020, 0x0101) := by decide
theorem test_cmrs_signed :
    gives (at100 0x0400 0xF032 [(3, 0xFFFF), (2, 0x0001)]) 15 = some (0x0400, 0x0101) := by decide
theorem test_cmrs_extremes :
    gives (at100 0x0400 0xF032 [(3, 0x7FFF), (2, 0x8000)]) 15 = some (0x0420, 0x0101) := by decide
theorem test_cmi_sign_extends :
    gives (at100 0x0000 0xF3E2 [(2, 0x0007)]) 15 = some (0x0020, 0x0101) := by decide
theorem test_cmi_equal :
    gives (at100 0x0000 0xF302 [(2, 0xFFF0)]) 15 = some (0x0010, 0x0101) := by decide
theorem test_cmis_signed :
    gives (at100 0x0400 0xF3E2 [(2, 0x0007)]) 15 = some (0x0400, 0x0101) := by decide
theorem test_cmis_greater :
    gives (at100 0x0400 0xF3F2 [(2, 0xFFFE)]) 15 = some (0x0420, 0x0101) := by decide
theorem test_anr :
    gives (at100 0x0000 0x3235 [(3, 0x0FF0), (2, 0x3C3C)]) 5 = some (0x0C30, 0x0101) := by decide
theorem test_ani :
    gives (at100 0x0000 0x4FA5 [(5, 0x12FF)]) 5 = some (0x00FA, 0x0101) := by decide
theorem test_anir_zero_extends :
    gives (at100 0x8000 0x4F15 [(1, 0xABCD)]) 5 = some (0x000D, 0x0101) := by decide
theorem test_anir_clears_its_own_bit :
    gives (at100 0x8000 0x4F1F [(1, 0xFFFF)]) 15 = some (0x000F, 0x0101) := by decide
theorem test_msi_negative :
    gives (at100 0x0000 0x5805 []) 5 = some (0xFF80, 0x0101) := by decide
theorem test_msi_r15 :
    gives (at100 0x8000 0x510F []) 15 = some (0x0010, 0x0101) := by decide
theorem test_msiShadow :
    refusalOf (step (at100 0x4000 0x5645 [])) = some .msiShadow := by decide
theorem test_mhi :
    gives (at100 0x0000 0x6125 [(5, 0xFF34)]) 5 = some (0x1234, 0x0101) := by decide
theorem test_mhi_r15 :
    gives (at100 0x0023 0x610F []) 15 = some (0x1023, 0x0101) := by decide
theorem test_slr_right :
    gives (at100 0x0000 0x7325 [(2, 0xFF00), (3, 0x0004)]) 5 = some (0x0FF0, 0x0101) := by decide
theorem test_slr_left :
    gives (at100 0x0000 0x7325 [(2, 0x8001), (3, 0x0031)]) 5 = some (0x0002, 0x0101) := by decide
theorem test_sar_right :
    gives (at100 0x0000 0x8325 [(2, 0xFF00), (3, 0x0004)]) 5 = some (0xFFF0, 0x0101) := by decide
theorem test_sar_left :
    gives (at100 0x0000 0x8325 [(2, 0x00F0), (3, 0x0012)]) 5 = some (0x03C0, 0x0101) := by decide
theorem test_shiLogical_left :
    gives (at100 0x0000 0xF935 [(5, 0x0011)]) 5 = some (0x0088, 0x0101) := by decide
theorem test_shiLogical_right :
    gives (at100 0x0000 0xF835 [(5, 0xFF00)]) 5 = some (0x1FE0, 0x0101) := by decide
theorem test_shiArith_right_15 :
    gives (at100 0x0000 0xFAF5 [(5, 0x8000)]) 5 = some (0xFFFF, 0x0101) := by decide
theorem test_shiArith_left :
    gives (at100 0x0000 0xFB35 [(5, 0xFF00)]) 5 = some (0xF800, 0x0101) := by decide
theorem test_adr_wraps :
    gives (at100 0x0020 0x9325 [(2, 0xFFFF), (3, 0x0002)]) 5 = some (0x0001, 0x0101) := by decide
theorem test_adr_same_register :
    gives (at100 0x0000 0x9111 [(1, 0x4001)]) 1 = some (0x8002, 0x0101) := by decide
theorem test_sur :
    gives (at100 0x0000 0xA325 [(2, 0x0005), (3, 0x0007)]) 5 = some (0xFFFE, 0x0101) := by decide
theorem test_adi_sign_extends :
    gives (at100 0x0000 0xB965 [(5, 0x0100)]) 5 = some (0x0096, 0x0101) := by decide
theorem test_adir_negative :
    gives (at100 0x8000 0xB815 [(1, 0x0004)]) 5 = some (0xFFFC, 0x0101) := by decide
theorem test_adir_r15 :
    gives (at100 0x8030 0xB00F []) 15 = some (0x0000, 0x0101) := by decide
theorem test_sui_sign_extends :
    gives (at100 0x0000 0xC965 [(5, 0x0100)]) 5 = some (0x016A, 0x0101) := by decide
theorem test_suir_negative :
    gives (at100 0x8000 0xC815 [(1, 0x0010)]) 5 = some (0x0018, 0x0101) := by decide
theorem test_mul_halves :
    gives2 (at100 0x0000 0xD235 [(3, 0xFFFD), (2, 0x0007)]) 5 6 = some (0xFFEB, 0x0006) := by decide
theorem test_mul_r14_writes_r15 :
    gives2 (at100 0x0000 0xD23E [(3, 0x1234), (2, 0x0100)]) 14 15 = some (0x3400, 0x0012) := by decide
theorem test_muls_halves :
    gives2 (at100 0x1000 0xD235 [(3, 0xFFFD), (2, 0x0007)]) 5 6 = some (0xFFEB, 0xFFFF) := by decide
theorem test_mull_keeps_next :
    gives2 (at100 0x3000 0xD235 [(3, 0xFFFD), (2, 0x0007), (6, 0x7777)]) 5 6 = some (0xFFEB, 0x7777) := by decide
theorem test_div :
    gives2 (at100 0x0000 0xE235 [(3, 0xFFF9), (2, 0x0002)]) 5 6 = some (0x7FFC, 0x0001) := by decide
/-- Division by zero completes: pc advances and no register but the destinations changes. -/
theorem test_div_by_zero_completes :
    (after (step (at100 0 0xE235 [(3, 0x0064), (7, 0x0007)]))).map (fun t => (t.reg 7, t.pc)) =
      some (0x0007, 0x0101) := by decide
theorem test_divs_truncates :
    gives2 (at100 0x1000 0xE235 [(3, 0xFFF9), (2, 0x0002)]) 5 6 = some (0xFFFD, 0xFFFF) := by decide
theorem test_divs_negative_divisor :
    gives2 (at100 0x1000 0xE235 [(3, 0x0007), (2, 0xFFFE)]) 5 6 = some (0xFFFD, 0x0001) := by decide
theorem test_divq_unsigned :
    gives2 (at100 0x0800 0xE235 [(3, 0xFFF9), (2, 0x0002), (6, 0x7777)]) 5 6 = some (0x7FFC, 0x7777) := by decide
theorem test_divq_signed :
    gives2 (at100 0x1800 0xE235 [(3, 0xFFF9), (2, 0x0002), (6, 0x7777)]) 5 6 = some (0xFFFD, 0x7777) := by decide
theorem test_ntrOnes :
    gives (at100 0x0000 0xFC25 [(2, 0x00FF)]) 5 = some (0xFF00, 0x0101) := by decide
theorem test_ntrTwos_zero :
    gives (at100 0x0000 0xFD25 [(5, 0x1111)]) 5 = some (0x0000, 0x0101) := by decide
theorem test_ntdOnes_r15 :
    gives (at100 0x8421 0xFE0F []) 15 = some (0x7BDE, 0x0101) := by decide
theorem test_ntdTwos :
    gives (at100 0x0000 0xFF05 [(5, 0x1234)]) 5 = some (0xEDCC, 0x0101) := by decide

/-- A write keeps the list of memory sorted and without repeats. -/
theorem test_memory_write_sorted :
    Memory.write [(3, 1), (7, 2)] 5 9 = [(3, 1), (5, 9), (7, 2)] ∧
    Memory.write [(3, 1), (7, 2)] 7 9 = [(3, 1), (7, 9)] := by decide

/-! ### Witnesses: the hypotheses of each obligation that has any can be met -/

theorem test_witness_DecodeOfEncodeIsTheInstruction :
    (Instr.adi 5 0x96).selectedBy 0x7FFF = true ∧ (Instr.divq 15 15 15).selectedBy 0x1800 = true := by
  decide
theorem test_witness_DecodedInstructionEncodesToItsWord :
    decode 0x8000 0x4215 = .ok (.anir 5 1 2) ∧ decode 0 0xFFFF = .ok (.ntdTwos 15) := by decide
theorem test_witness_EveryWordDecodesToOneTableRow :
    0x4215#16 &&& (Instr.ani 0 0).rowMask = (Instr.ani 0 0).rowMatch := by decide
theorem test_witness_DecodingReadsOnlyAssignedShadowBits :
    0x8000#16 &&& 0xFC00#16 = 0x83FF#16 &&& 0xFC00#16 ∧ 0x8000#16 ≠ 0x83FF#16 := by decide
theorem test_witness_RegisterZeroIsConstant :
    (start 0 0 [(0x0300, 0xBEEF)] [(2, 0x0300)]).memRead 0x0300 = .ok 0xBEEF ∧
    (start 0 0 [] [(2, 0x0300)]).memRead 0x0300 = .error (.unwrittenMemory 0 0x0300) ∧
    (start 0 0 [] [(2, 7)]).reg 2 ≠ 0 ∧
    (withSilent State.reset).ioDeviceAt 0x000F ≠ some .silent ∧
    (withSilent State.reset).ioDeviceAt 0x0010 = some .silent := by decide
theorem test_witness_LoadFromMemory :
    (start 0 0 [(0xFFFF, 0xBEEF)] [(2, 0xFFFF)]).wordAt 0xFFFF = some 0xBEEF ∧
    (start 0 0 [(0xFFFF, 0xBEEF)] [(2, 0xFFFE)]).wordAt 0xFFFE = none := by decide
theorem test_witness_LoadFromIo :
    (let s : State := { State.reset with ioIn := [0x00FF] }
     s.ioIn.head? = some 0x00FF ∧ s.ioDeviceAt 0x0010 ≠ some .silent) ∧
    (withSilent State.reset).ioDeviceAt 0x0010 = some .silent := by decide
theorem test_witness_StoreToIo :
    (withSilent State.reset).ioDeviceAt 0x0013 ≠ some .silent ∧
    (withSilent State.reset).ioDeviceAt 0x0012 = some .silent := by decide
theorem test_witness_StoreToMemory :
    storeAddress (start 0 0 [] [(3, 0xFFFF)]) (.str 3 2) = some 0xFFFF ∧ (0xFFFE#16 ≠ 0xFFFF#16) := by
  decide
theorem test_witness_StoreIsSeenByTheNextFetch :
    let s := start 0 0x0100 [] [(3, 0x0101), (2, 0x2C00)]
    s.reg 3 = s.pc + 1 ∧ decode s.r15 (s.reg 2) = .ok (.jmi 0 0) := by decide
theorem test_witness_CompareRegisters :
    (start 0xFBFF 0 [] []).r15.getLsbD 10 = false ∧ (start 0x0400 0 [] []).r15.getLsbD 10 = true := by
  decide
theorem test_witness_CompareImmediate :
    (start 0xFBFF 0 [] []).r15.getLsbD 10 = false ∧ (start 0x0400 0 [] []).r15.getLsbD 10 = true := by
  decide
theorem test_witness_AndImmediate : (start 0x7FFF 0 [] []).r15.getLsbD 15 = false := by decide
theorem test_witness_AndImmediateRegister : (start 0x8000 0 [] []).r15.getLsbD 15 = true := by decide
theorem test_witness_MoveSignedImmediate : (start 0xBFFF 0 [] []).r15.getLsbD 14 = false := by decide
theorem test_witness_MoveShadowIsRefused : (start 0x4000 0 [] []).r15.getLsbD 14 = true := by decide
theorem test_witness_TwoMovesBuildAnyConstant : (1 : RegIdx) ≠ 0 ∧ (15 : RegIdx) ≠ 0 := by decide
theorem test_witness_AddImmediate : (start 0x7FFF 0 [] []).r15.getLsbD 15 = false := by decide
theorem test_witness_AddImmediateRegister : (start 0x8000 0 [] []).r15.getLsbD 15 = true := by decide
theorem test_witness_SubtractImmediate : (start 0x7FFF 0 [] []).r15.getLsbD 15 = false := by decide
theorem test_witness_SubtractImmediateRegister : (start 0x8000 0 [] []).r15.getLsbD 15 = true := by
  decide
theorem test_witness_CarryShowsAsASmallerSum : (1 : RegIdx) ≠ 0 := by decide
theorem test_witness_MultiplyUnsigned :
    (start 0xCFFF 0 [] []).r15.getLsbD 12 = false ∧ (start 0xCFFF 0 [] []).r15.getLsbD 13 = false := by
  decide
theorem test_witness_MultiplySigned :
    (start 0x1000 0 [] []).r15.getLsbD 12 = true ∧ (start 0x1000 0 [] []).r15.getLsbD 13 = false := by
  decide
theorem test_witness_MultiplyLow : (start 0x3000 0 [] []).r15.getLsbD 13 = true := by decide
theorem test_witness_DivideUnsigned :
    let s := start 0xE7FF 0 [] [(3, 0x0064), (2, 7)]
    s.r15.getLsbD 12 = false ∧ s.r15.getLsbD 11 = false ∧ s.reg 2 ≠ 0 := by decide
theorem test_witness_DivideSigned :
    let s := start 0x1000 0 [] [(3, 0x8000), (2, 1)]
    s.r15.getLsbD 12 = true ∧ s.r15.getLsbD 11 = false ∧ s.reg 2 ≠ 0 ∧
      ¬(s.reg 3 = 0x8000#16 ∧ s.reg 2 = 0xFFFF#16) := by decide
theorem test_witness_DivideQuotientOnly :
    let s := start 0x0800 0 [] [(3, 0x8000), (2, 0xFFFF)]
    let u := start 0x1800 0 [] [(3, 0x8001), (2, 0xFFFF)]
    (s.r15.getLsbD 11 = true ∧ s.reg 2 ≠ 0 ∧ s.r15.getLsbD 12 = false) ∧
    (u.r15.getLsbD 11 = true ∧ u.reg 2 ≠ 0 ∧ u.r15.getLsbD 12 = true ∧
      ¬(u.reg 3 = 0x8000#16 ∧ u.reg 2 = 0xFFFF#16)) := by decide
theorem test_witness_DivisionWithoutResultCompletes :
    (start 0 0 [] [(3, 0x0064)]).reg 2 = 0 ∧
    (let s := start 0x1800 0 [] [(3, 0x8000), (2, 0xFFFF)]
     s.reg 3 = 0x8000#16 ∧ s.reg 2 = 0xFFFF#16 ∧ s.r15.getLsbD 12 = true) := by decide
theorem test_witness_DivisionLaws :
    let s := start 0 0 [] [(3, 0xFFF9), (2, 0xFFFE)]
    (5 : RegIdx) ≠ 0 ∧ (5 : RegIdx) ≠ 15 ∧ s.reg 2 ≠ 0 ∧
      ¬(s.reg 3 = 0x8000#16 ∧ s.reg 2 = 0xFFFF#16) ∧ (s.reg 3).toInt ≤ 0 ∧
      0 ≤ ((start 0 0 [] [(3, 7), (2, 0xFFFE)]).reg 3).toInt := by decide
theorem test_witness_StepRunsTheDecodedInstruction :
    let s := at100 0 0xA325 []
    s.wordAt s.pc = some 0xA325 ∧ decode s.r15 0xA325 = .ok (.sur 5 2 3) ∧
      State.reset.wordAt State.reset.pc = none := by decide
theorem test_witness_OnlyDestinationRegistersChange :
    (∃ t, exec (.mul 5 3 2) State.reset = .next t) ∧ (7 : RegIdx) ∉ destinations (.mul 5 3 2) ∧
      ((7 : RegIdx) = 15 → isCompare (.mul 5 3 2) = false) := ⟨⟨_, rfl⟩, by decide, by decide⟩
theorem test_witness_OnlyComparesWriteFlagsImplicitly :
    ((∃ t, exec (.adr 5 3 2) State.reset = .next t) ∧ 15 ∉ destinations (.adr 5 3 2) ∧
      isCompare (.adr 5 3 2) = false) ∧
    ((∃ t, exec (.cmr 3 2) State.reset = .next t) ∧ 15 ∉ destinations (.cmr 3 2)) :=
  ⟨⟨⟨_, rfl⟩, by decide, by decide⟩, ⟨_, rfl⟩, by decide⟩
theorem test_witness_OnlyControlTransfersSetPc :
    (∃ t, exec (.ldrIo 3 2) State.reset = .next t) ∧ isControlTransfer (.ldrIo 3 2) = false :=
  ⟨⟨_, rfl⟩, by decide⟩
theorem test_witness_OnlyStoreChangesMemory :
    (∃ t, exec (.str 3 2) State.reset = .next t) ∧ storeAddress State.reset (.str 3 2) ≠ some 1 :=
  ⟨⟨_, rfl⟩, by decide⟩
theorem test_witness_IoHistoryRecordsEachAccess :
    (∃ t, exec (.ldrIo 3 2) State.reset = .next t) ∧ (∃ t, exec (.strIo 3 2) State.reset = .next t) ∧
      (∃ t, exec (.str 3 2) State.reset = .next t) := ⟨⟨_, rfl⟩, ⟨_, rfl⟩, ⟨_, rfl⟩⟩
theorem test_witness_InstructionsStopExactlyWhereListed :
    stopsAt (.ldr 3 2) State.reset = true ∧ stopsAt (.str 3 2) State.reset = false ∧
      stopsAt (.ldrIo 3 2) State.reset = false ∧
      stopsAt (.strIo 3 2) (withSilent (start 0 0 [] [(3, 0x0011)])) = true ∧
      stopsAt (.brc 0b00101#5 2) State.reset = false ∧ stopsAt (.brc 0b00110#5 2) State.reset = true := by
  decide
theorem test_witness_UnassignedBitsInfluenceNothing :
    0x03CF#16 &&& assignedR15 = State.reset.r15 &&& assignedR15 ∧ 0x03CF#16 ≠ State.reset.r15 ∧
      15 ∉ sources (.divq 5 3 2) := by decide
theorem test_witness_EveryStepKeepsTheInvariant :
    let s := at100 0 0x2423 [(3, 0x0001), (2, 0x1234)]
    s.mem.wf = true ∧ (∀ a ∈ s.mem.map Prod.fst, memMapped (BitVec.ofNat 16 a) = true) ∧
      (after (step s)).isSome = true := by decide
theorem test_witness_EndedRunStaysAsItIs : (at100 0 0x2C00 []).fetch = .ok 0x2C00#16 := by decide

end Sys2Proof.Tests
end

/-! ## AND and moves with an immediate (spec/43_logic_move_shift.md R141, R144, R146)

Each of ANI, MSI and MHI is a word of format I8 that ends by writing one value to `rd`. What such an end
leaves of the state before is said once (`finishWith_frame`); each obligation then needs the row its word
spells, its meaning as a `finishWith`, and the value in the spec's form. -/

namespace Sys2Proof.Machine

/-! ### The end of an instruction with one result -/

/-- `finishWith` completes: `rd` holds `v` (R0 discards it), pc is the next instruction, the rest is kept. -/
theorem finishWith_frame (rd : RegIdx) (v : Word) (s : State) :
    ∃ t, finishWith rd v s = .next t ∧ t.reg rd = writtenTo rd v ∧
      ChangesOnly [rd] (s.pc + 1) s t := by
  refine ⟨(s.setReg rd v).setPc (s.pc + 1), finishWith_eq rd v s, ?_, ChangesOnly.of_setReg s rd v _⟩
  rw [State.setPc_reg, reg_setReg_writtenTo]

/-! ### The rows the words spell (R95) -/

/-- Opcode 0100 spells ANI where the shadow bit R15[15] is 0. -/
theorem decode_ani {r15 : Word} (h : shImr r15 = false) (rd : RegIdx) (imm8 : BitVec 8) :
    decode r15 (encodeI8 0b0100#4 rd imm8) = .ok (.ani rd imm8) := by
  simp [decodeRow, h]

/-- Opcode 0101 spells MSI where the shadow bit R15[14] is 0. -/
theorem decode_msi {r15 : Word} (h : shMsi r15 = false) (rd : RegIdx) (imm8 : BitVec 8) :
    decode r15 (encodeI8 0b0101#4 rd imm8) = .ok (.msi rd imm8) := by
  simp [decodeRow, h]

/-- Opcode 0110 has no shadow: it spells MHI under every R15. -/
theorem decode_mhi (r15 : Word) (rd : RegIdx) (imm8 : BitVec 8) :
    decode r15 (encodeI8 0b0110#4 rd imm8) = .ok (.mhi rd imm8) := by
  simp [decodeRow]

/-! ### The meanings, each the end with one result -/

/-- ANI writes `x[rd] AND zext_16(imm8)` (R141). -/
theorem exec_ani (rd : RegIdx) (imm8 : BitVec 8) (s : State) :
    exec (.ani rd imm8) s = finishWith rd (s.reg rd &&& zext16 imm8) s := rfl

/-- MSI writes `sext_16(imm8)` (R144). -/
theorem exec_msi (rd : RegIdx) (imm8 : BitVec 8) (s : State) :
    exec (.msi rd imm8) s = finishWith rd (imm8.signExtend 16) s := rfl

/-- MHI writes `{imm8, x[rd][7:0]}` (R146). -/
theorem exec_mhi (rd : RegIdx) (imm8 : BitVec 8) (s : State) :
    exec (.mhi rd imm8) s = finishWith rd (imm8 ++ (s.reg rd).extractLsb' 0 8) s := rfl

/-- `zext_16(imm8)` is `{0x00, imm8}`, the form the source writes (R141). -/
theorem zext16_eq_append (imm8 : BitVec 8) : zext16 imm8 = 0x00#8 ++ imm8 :=
  BitVec.setWidth_eq_append (by decide)

/-! ### The obligations -/

/-- Settles O22: the shadow bit selects ANI's row, and the zero-extended immediate is the concatenation
the source writes. -/
theorem andImmediate : Obligations.AndImmediate := by
  intro s rd imm8 hsh
  refine ⟨decode_ani hsh rd imm8, ?_⟩
  rw [exec_ani, zext16_eq_append]
  exact finishWith_frame rd _ s

/-- Settles O24: the shadow bit selects MSI's row, whose end writes the sign-extended immediate. -/
theorem moveSignedImmediate : Obligations.MoveSignedImmediate := by
  intro s rd imm8 hsh
  refine ⟨decode_msi hsh rd imm8, ?_⟩
  rw [exec_msi]
  exact finishWith_frame rd _ s

/-- Settles O26: no shadow bit is read, and the end writes the immediate above the kept low byte. -/
theorem moveHighImmediate : Obligations.MoveHighImmediate := by
  intro s rd imm8
  refine ⟨decode_mhi s.r15 rd imm8, ?_⟩
  rw [exec_mhi]
  exact finishWith_frame rd _ s

end Sys2Proof.Machine

/-! ## Decoding: the row each word spells (spec/30_encoding.md R90, R91, R95)

One lemma per row of the opcode table, over the format the row is written in, for every operand and every
value of an unused bit `u` (R94). A row with a shadow asks for the shadow bits that select it. The round trip
and the decode parts of the instructions' own obligations cite these. -/

namespace Sys2Proof.Machine

section
variable (r15 : Word) (rd rs1 rs2 : RegIdx)

/-! ### Opcodes 0000 and 0001, for any other bits -/

theorem decode_reserved0000 (rest : BitVec 12) :
    decode r15 (0b0000#4 ++ rest) = .ok .reserved0000 := by
  have hop : opcodeOf (0b0000#4 ++ rest) = 0b0000#4 := extract_append_high _ _ (by decide)
  simp [decodeRow, hop]

theorem decode_reserved0001 (rest : BitVec 12) :
    decode r15 (0b0001#4 ++ rest) = .ok .reserved0001 := by
  have hop : opcodeOf (0b0001#4 ++ rest) = 0b0001#4 := extract_append_high _ _ (by decide)
  simp [decodeRow, hop]

/-! ### Opcode 0010: transfers and jumps -/

theorem decode_ldr (u : BitVec 1) :
    decode r15 (encodeX2 (0b0010000#7 ++ u) rd rs1) = .ok (.ldr rd rs1) := by
  obtain rfl | rfl := u.eq_zero_or_eq_one <;> simp [decodeRow, decodeTransferOrJump]

theorem decode_ldrIo (u : BitVec 1) :
    decode r15 (encodeX2 (0b0010001#7 ++ u) rd rs1) = .ok (.ldrIo rd rs1) := by
  obtain rfl | rfl := u.eq_zero_or_eq_one <;> simp [decodeRow, decodeTransferOrJump]

theorem decode_str (u : BitVec 1) :
    decode r15 (encodeX2 (0b0010010#7 ++ u) rd rs1) = .ok (.str rd rs1) := by
  obtain rfl | rfl := u.eq_zero_or_eq_one <;> simp [decodeRow, decodeTransferOrJump]

theorem decode_strIo (u : BitVec 1) :
    decode r15 (encodeX2 (0b0010011#7 ++ u) rd rs1) = .ok (.strIo rd rs1) := by
  obtain rfl | rfl := u.eq_zero_or_eq_one <;> simp [decodeRow, decodeTransferOrJump]

theorem decode_jmrS0 (u : BitVec 1) :
    decode r15 (encodeX2 (0b0010100#7 ++ u) rd rs1) = .ok (.jmrS0 rd rs1) := by
  obtain rfl | rfl := u.eq_zero_or_eq_one <;> simp [decodeRow, decodeTransferOrJump]

theorem decode_jmrS1 (u : BitVec 1) :
    decode r15 (encodeX2 (0b0010101#7 ++ u) rd rs1) = .ok (.jmrS1 rd rs1) := by
  obtain rfl | rfl := u.eq_zero_or_eq_one <;> simp [decodeRow, decodeTransferOrJump]

theorem decode_jmi (imm6 : BitVec 6) :
    decode r15 (encodeJ6 0b001011#6 rd imm6) = .ok (.jmi rd imm6) := by
  simp [decodeRow, decodeTransferOrJump]

/-! ### The three-register format -/

theorem decode_anr : decode r15 (encodeR3 0b0011#4 rd rs1 rs2) = .ok (.anr rd rs1 rs2) := by
  simp [decodeRow]

theorem decode_slr : decode r15 (encodeR3 0b0111#4 rd rs1 rs2) = .ok (.slr rd rs1 rs2) := by
  simp [decodeRow]

theorem decode_sar : decode r15 (encodeR3 0b1000#4 rd rs1 rs2) = .ok (.sar rd rs1 rs2) := by
  simp [decodeRow]

theorem decode_adr : decode r15 (encodeR3 0b1001#4 rd rs1 rs2) = .ok (.adr rd rs1 rs2) := by
  simp [decodeRow]

theorem decode_sur : decode r15 (encodeR3 0b1010#4 rd rs1 rs2) = .ok (.sur rd rs1 rs2) := by
  simp [decodeRow]

variable {r15}

theorem decode_mul (hmull : shMull r15 = false) (hsgn : shSgn r15 = false) :
    decode r15 (encodeR3 0b1101#4 rd rs1 rs2) = .ok (.mul rd rs1 rs2) := by
  simp [decodeRow, hmull, hsgn]

theorem decode_muls (hmull : shMull r15 = false) (hsgn : shSgn r15 = true) :
    decode r15 (encodeR3 0b1101#4 rd rs1 rs2) = .ok (.muls rd rs1 rs2) := by
  simp [decodeRow, hmull, hsgn]

/-- R15[12] is not read where R15[13] = 1 (D14, log 19). -/
theorem decode_mull (hmull : shMull r15 = true) :
    decode r15 (encodeR3 0b1101#4 rd rs1 rs2) = .ok (.mull rd rs1 rs2) := by
  simp [decodeRow, hmull]

theorem decode_div (hdivq : shDivq r15 = false) (hsgn : shSgn r15 = false) :
    decode r15 (encodeR3 0b1110#4 rd rs1 rs2) = .ok (.div rd rs1 rs2) := by
  simp [decodeRow, hdivq, hsgn]

theorem decode_divs (hdivq : shDivq r15 = false) (hsgn : shSgn r15 = true) :
    decode r15 (encodeR3 0b1110#4 rd rs1 rs2) = .ok (.divs rd rs1 rs2) := by
  simp [decodeRow, hdivq, hsgn]

/-- The row is DIVQ's for either value of R15[12] (D14, log 19). -/
theorem decode_divq (hdivq : shDivq r15 = true) :
    decode r15 (encodeR3 0b1110#4 rd rs1 rs2) = .ok (.divq rd rs1 rs2) := by
  simp [decodeRow, hdivq]

/-! ### The formats with an immediate of eight or of four bits -/

theorem decode_msiShadow (h : shMsi r15 = true) (imm8 : BitVec 8) :
    decode r15 (encodeI8 0b0101#4 rd imm8) = .ok (.msiShadow rd imm8) := by
  simp [decodeRow, h]

theorem decode_adi (h : shImr r15 = false) (imm8 : BitVec 8) :
    decode r15 (encodeI8 0b1011#4 rd imm8) = .ok (.adi rd imm8) := by
  simp [decodeRow, h]

theorem decode_sui (h : shImr r15 = false) (imm8 : BitVec 8) :
    decode r15 (encodeI8 0b1100#4 rd imm8) = .ok (.sui rd imm8) := by
  simp [decodeRow, h]

theorem decode_anir (h : shImr r15 = true) (imm4 : BitVec 4) :
    decode r15 (encodeRI4 0b0100#4 rd rs1 imm4) = .ok (.anir rd rs1 imm4) := by
  simp [decodeRow, h]

theorem decode_adir (h : shImr r15 = true) (imm4 : BitVec 4) :
    decode r15 (encodeRI4 0b1011#4 rd rs1 imm4) = .ok (.adir rd rs1 imm4) := by
  simp [decodeRow, h]

theorem decode_suir (h : shImr r15 = true) (imm4 : BitVec 4) :
    decode r15 (encodeRI4 0b1100#4 rd rs1 imm4) = .ok (.suir rd rs1 imm4) := by
  simp [decodeRow, h]

/-! ### Opcode 1111: compares, branches, SHI, NTR, NTD -/

theorem decode_cmr (h : shCmps r15 = false) (u : BitVec 1) :
    decode r15 (encodeX2 (0b1111000#7 ++ u) rd rs1) = .ok (.cmr rs1 rd) := by
  obtain rfl | rfl := u.eq_zero_or_eq_one <;> simp [decodeRow, decodeExtended, h]

theorem decode_cmrs (h : shCmps r15 = true) (u : BitVec 1) :
    decode r15 (encodeX2 (0b1111000#7 ++ u) rd rs1) = .ok (.cmrs rs1 rd) := by
  obtain rfl | rfl := u.eq_zero_or_eq_one <;> simp [decodeRow, decodeExtended, h]

theorem decode_cmi (h : shCmps r15 = false) (imm5 : BitVec 5) :
    decode r15 (encodeI5 0b1111001#7 rd imm5) = .ok (.cmi imm5 rd) := by
  simp [decodeRow, decodeExtended, h]

theorem decode_cmis (h : shCmps r15 = true) (imm5 : BitVec 5) :
    decode r15 (encodeI5 0b1111001#7 rd imm5) = .ok (.cmis imm5 rd) := by
  simp [decodeRow, decodeExtended, h]

variable (r15)

theorem decode_brc (fib : BitVec 5) :
    decode r15 (encodeI5 0b1111010#7 rd fib) = .ok (.brc fib rd) := by
  simp [decodeRow, decodeExtended]

theorem decode_brr (fib : BitVec 5) :
    decode r15 (encodeI5 0b1111011#7 rd fib) = .ok (.brr fib rd) := by
  simp [decodeRow, decodeExtended]

theorem decode_shiLogical (shim : BitVec 5) :
    decode r15 (encodeI5 0b1111100#7 rd shim) = .ok (.shiLogical rd shim) := by
  simp [decodeRow, decodeExtended]

theorem decode_shiArith (shim : BitVec 5) :
    decode r15 (encodeI5 0b1111101#7 rd shim) = .ok (.shiArith rd shim) := by
  simp [decodeRow, decodeExtended]

theorem decode_ntrOnes : decode r15 (encodeX2 0b11111100#8 rd rs1) = .ok (.ntrOnes rd rs1) := by
  simp [decodeRow, decodeExtended]

theorem decode_ntrTwos : decode r15 (encodeX2 0b11111101#8 rd rs1) = .ok (.ntrTwos rd rs1) := by
  simp [decodeRow, decodeExtended]

theorem decode_ntdOnes (unused : BitVec 4) :
    decode r15 (encodeX2 0b11111110#8 rd unused) = .ok (.ntdOnes rd) := by
  simp [decodeRow, decodeExtended]

theorem decode_ntdTwos (unused : BitVec 4) :
    decode r15 (encodeX2 0b11111111#8 rd unused) = .ok (.ntdTwos rd) := by
  simp [decodeRow, decodeExtended]

end

/-! ### The round trip from an instruction -/

/-- Settles O1, by cases on the instruction: the word of each row decodes to it by the row's own lemma, and
where the row has shadows, "R15 selects it" is that lemma's hypothesis on the shadow bits. -/
theorem decodeOfEncodeIsTheInstruction : Obligations.DecodeOfEncodeIsTheInstruction := by
  intro r15 i hsel
  cases i with
  | reserved0000 => exact decode_reserved0000 r15 0#12
  | reserved0001 => exact decode_reserved0001 r15 0#12
  | ldr rd rs1 => exact decode_ldr r15 rd rs1 0#1
  | ldrIo rd rs1 => exact decode_ldrIo r15 rd rs1 0#1
  | str rd rs1 => exact decode_str r15 rd rs1 0#1
  | strIo rd rs1 => exact decode_strIo r15 rd rs1 0#1
  | jmrS0 rd rs1 => exact decode_jmrS0 r15 rd rs1 0#1
  | jmrS1 rd rs1 => exact decode_jmrS1 r15 rd rs1 0#1
  | jmi rd imm6 => exact decode_jmi r15 rd imm6
  | anr rd rs1 rs2 => exact decode_anr r15 rd rs1 rs2
  | ani rd imm8 => exact decode_ani (by simpa [Instr.selectedBy] using hsel) rd imm8
  | anir rd rs1 imm4 => exact decode_anir rd rs1 hsel imm4
  | msi rd imm8 => exact decode_msi (by simpa [Instr.selectedBy] using hsel) rd imm8
  | msiShadow rd imm8 => exact decode_msiShadow rd hsel imm8
  | mhi rd imm8 => exact decode_mhi r15 rd imm8
  | slr rd rs1 rs2 => exact decode_slr r15 rd rs1 rs2
  | sar rd rs1 rs2 => exact decode_sar r15 rd rs1 rs2
  | adr rd rs1 rs2 => exact decode_adr r15 rd rs1 rs2
  | sur rd rs1 rs2 => exact decode_sur r15 rd rs1 rs2
  | adi rd imm8 => exact decode_adi rd (by simpa [Instr.selectedBy] using hsel) imm8
  | adir rd rs1 imm4 => exact decode_adir rd rs1 hsel imm4
  | sui rd imm8 => exact decode_sui rd (by simpa [Instr.selectedBy] using hsel) imm8
  | suir rd rs1 imm4 => exact decode_suir rd rs1 hsel imm4
  | mul rd rs1 rs2 =>
    obtain ⟨hmull, hsgn⟩ : shMull r15 = false ∧ shSgn r15 = false := by
      simpa [Instr.selectedBy] using hsel
    exact decode_mul rd rs1 rs2 hmull hsgn
  | muls rd rs1 rs2 =>
    obtain ⟨hmull, hsgn⟩ : shMull r15 = false ∧ shSgn r15 = true := by
      simpa [Instr.selectedBy] using hsel
    exact decode_muls rd rs1 rs2 hmull hsgn
  | mull rd rs1 rs2 => exact decode_mull rd rs1 rs2 hsel
  | div rd rs1 rs2 =>
    obtain ⟨hsgn, hdivq⟩ : shSgn r15 = false ∧ shDivq r15 = false := by
      simpa [Instr.selectedBy] using hsel
    exact decode_div rd rs1 rs2 hdivq hsgn
  | divs rd rs1 rs2 =>
    obtain ⟨hsgn, hdivq⟩ : shSgn r15 = true ∧ shDivq r15 = false := by
      simpa [Instr.selectedBy] using hsel
    exact decode_divs rd rs1 rs2 hdivq hsgn
  | divq rd rs1 rs2 => exact decode_divq rd rs1 rs2 hsel
  | cmr rs1 rd => exact decode_cmr rd rs1 (by simpa [Instr.selectedBy] using hsel) 0#1
  | cmrs rs1 rd => exact decode_cmrs rd rs1 hsel 0#1
  | cmi imm5 rd => exact decode_cmi rd (by simpa [Instr.selectedBy] using hsel) imm5
  | cmis imm5 rd => exact decode_cmis rd hsel imm5
  | brc fib rd => exact decode_brc r15 rd fib
  | brr fib rd => exact decode_brr r15 rd fib
  | shiLogical rd shim => exact decode_shiLogical r15 rd shim
  | shiArith rd shim => exact decode_shiArith r15 rd shim
  | ntrOnes rd rs1 => exact decode_ntrOnes r15 rd rs1
  | ntrTwos rd rs1 => exact decode_ntrTwos r15 rd rs1
  | ntdOnes rd => exact decode_ntdOnes r15 rd 0#4
  | ntdTwos rd => exact decode_ntdTwos r15 rd 0#4

end Sys2Proof.Machine

/-! ## How an instruction completes, said once for all 41

`exec_completes` is the one walk over the instructions: where `stopsAt` is false, `exec` answers a next state,
in one of the seven ways of `Completes`. The invariant of O58 and what every instruction leaves unchanged
(O50 to O55) are read off those ways. -/

namespace Sys2Proof.Machine

/-! ### The counter of free values -/

/-- The state after `n` free values have been drawn (log 8). -/
def State.advanceDraws (s : State) (n : Nat) : State := { s with draws := s.draws + n }

section
variable (s : State) (n : Nat)

theorem State.draw_snd : s.draw.2 = s.advanceDraws 1 := rfl
theorem State.draw_draw_snd : s.draw.2.draw.2 = s.advanceDraws 2 := rfl
@[simp] theorem State.advanceDraws_r15 : (s.advanceDraws n).r15 = s.r15 := rfl
@[simp] theorem State.advanceDraws_mem : (s.advanceDraws n).mem = s.mem := rfl
@[simp] theorem State.advanceDraws_ioLog : (s.advanceDraws n).ioLog = s.ioLog := rfl
@[simp] theorem State.advanceDraws_ioIn : (s.advanceDraws n).ioIn = s.ioIn := rfl
@[simp] theorem State.advanceDraws_ioMap : (s.advanceDraws n).ioMap = s.ioMap := rfl
@[simp] theorem State.advanceDraws_reg (r : RegIdx) : (s.advanceDraws n).reg r = s.reg r := rfl
@[simp] theorem State.advanceDraws_wordAt (a : Word) : (s.advanceDraws n).wordAt a = s.wordAt a := rfl

end

/-! ### The ways to complete -/

/-- The two instructions that make an IO access (spec/20_memory.md R56, R57). -/
def accessesIo : Instr → Bool
  | .ldrIo _ _ | .strIo _ _ => true
  | _ => false

/-- What the state `t` after the instruction `i` at `s` can be. -/
inductive Completes (i : Instr) (s : State) : State → Prop
  /-- Nothing but pc moves: JMR without a link, and the branches. -/
  | moves (p : Word) (hp : isControlTransfer i = false → p = s.pc + 1) (hio : accessesIo i = false) :
      Completes i s (s.setPc p)
  /-- One result, a link included, after `n` draws. -/
  | writes (rd : RegIdx) (v p : Word) (n : Nat) (hrd : rd ∈ destinations i)
      (hp : isControlTransfer i = false → p = s.pc + 1) (hio : accessesIo i = false) :
      Completes i s (((s.advanceDraws n).setReg rd v).setPc p)
  /-- Two results, after `n` draws. -/
  | writesPair (rd : RegIdx) (v w : Word) (n : Nat) (hrd : rd ∈ destinations i)
      (hsecond : secondReg rd ∈ destinations i) (hio : accessesIo i = false) :
      Completes i s ((((s.advanceDraws n).setReg rd v).setReg (secondReg rd) w).setPc (s.pc + 1))
  /-- A compare writes G and E. -/
  | flags (g e : Bool) (hcmp : isCompare i = true) (hio : accessesIo i = false) :
      Completes i s ((s.setR15 (withCompareFlags s.r15 g e)).setPc (s.pc + 1))
  /-- LDRio receives and writes rd. -/
  | receives (rd rs1 : RegIdx) (hi : i = .ldrIo rd rs1) :
      Completes i s
        (((s.ioReceive (s.reg rs1)).2.setReg rd (s.ioReceive (s.reg rs1)).1).setPc (s.pc + 1))
  /-- STR puts one word. -/
  | stores (rd rs1 : RegIdx) (hi : i = .str rd rs1) :
      Completes i s ((s.putWord (s.reg rd) (s.reg rs1)).setPc (s.pc + 1))
  /-- STRio records its event. -/
  | sends (rd rs1 : RegIdx) (hi : i = .strIo rd rs1) :
      Completes i s ((s.ioSend (s.reg rd) (s.reg rs1)).setPc (s.pc + 1))

/-- The result of an instruction is a next state, reached in one of the ways of `Completes`. -/
def EndsWell (i : Instr) (s : State) (r : Result) : Prop := ∃ t, r = .next t ∧ Completes i s t

/-! ### The shared ends of instructions, each one of the ways -/

section
variable {i : Instr} {s : State} {rd : RegIdx}

theorem endsWell_finishWith {v : Word} (hrd : rd ∈ destinations i) (hio : accessesIo i = false) :
    EndsWell i s (finishWith rd v s) :=
  ⟨_, finishWith_eq rd v s, .writes rd v _ 0 hrd (fun _ => rfl) hio⟩

theorem endsWell_finishWithPair {v w : Word} (hrd : rd ∈ destinations i)
    (hsecond : secondReg rd ∈ destinations i) (hio : accessesIo i = false) :
    EndsWell i s (finishWithPair rd v w s) :=
  ⟨_, finishWithPair_eq rd v w s, .writesPair rd v w 0 hrd hsecond hio⟩

theorem endsWell_finishDivide {d : Division} (hrd : rd ∈ destinations i)
    (hsecond : secondReg rd ∈ destinations i) (hio : accessesIo i = false) :
    EndsWell i s (finishDivide rd d s) := by
  obtain ⟨u, v, w, rfl | rfl, -, h⟩ := finishDivide_eq rd d s
  · exact ⟨_, h, .writesPair rd v w 0 hrd hsecond hio⟩
  · rw [State.draw_draw_snd] at h
    exact ⟨_, h, .writesPair rd v w 2 hrd hsecond hio⟩

theorem endsWell_finishQuotient {d : Division} (hrd : rd ∈ destinations i)
    (hio : accessesIo i = false) : EndsWell i s (finishQuotient rd d s) := by
  obtain ⟨u, v, rfl | rfl, -, h⟩ := finishQuotient_eq rd d s
  · exact ⟨_, h, .writes rd v _ 0 hrd (fun _ => rfl) hio⟩
  · rw [State.draw_snd] at h
    exact ⟨_, h, .writes rd v _ 1 hrd (fun _ => rfl) hio⟩

theorem endsWell_link {v p : Word} (hrd : rd ∈ destinations i) (hct : isControlTransfer i = true)
    (hio : accessesIo i = false) : EndsWell i s (finishAt p (s.setReg rd v)) :=
  ⟨_, finishAt_eq p _, .writes rd v p 0 hrd (by simp [hct]) hio⟩

theorem endsWell_branchTo {fib : BitVec 5} {target : Word} (hfib : (condOfFib fib).isSome = true)
    (hct : isControlTransfer i = true) (hio : accessesIo i = false) :
    EndsWell i s (branchTo fib target s) := by
  obtain ⟨c, hc⟩ := Option.isSome_iff_exists.1 hfib
  exact ⟨_, by rw [branchTo_eq, hc], .moves _ (by simp [hct]) hio⟩

theorem endsWell_flags {g e : Bool} (hcmp : isCompare i = true) (hio : accessesIo i = false) :
    EndsWell i s (finish (s.setR15 (withCompareFlags s.r15 g e))) :=
  ⟨_, finish_eq _, .flags g e hcmp hio⟩

end

/-! ### LDR and STR in one equation each -/

/-- LDR answers the state with `rd` written, or faults where the location has no value (R110; log 3). -/
theorem exec_ldr (rd rs1 : RegIdx) (s : State) :
    exec (.ldr rd rs1) s = match s.wordAt (s.reg rs1) with
      | some v => finishWith rd v s
      | none => .fault (.unwrittenMemory s.pc (s.reg rs1)) := by
  change execLdr rd rs1 s = _
  unfold execLdr
  rw [State.memRead_eq]
  cases s.wordAt (s.reg rs1) <;> rfl

/-- STR answers the state with the word put (R112; log 5). -/
theorem exec_str (rd rs1 : RegIdx) (s : State) :
    exec (.str rd rs1) s = .next ((s.putWord (s.reg rd) (s.reg rs1)).setPc (s.pc + 1)) := by
  change execStr rd rs1 s = _
  unfold execStr
  rw [State.memWrite_eq]
  rfl

/-! ### Every instruction -/

/-- Where an instruction is not at one of its stops it completes, in one of the seven ways. -/
theorem exec_completes {i : Instr} {s : State} (h : stopsAt i s = false) : EndsWell i s (exec i s) := by
  cases i with
  | reserved0000 | reserved0001 | msiShadow rd _ => exact absurd h (by simp [stopsAt])
  | ldr rd rs1 =>
    obtain ⟨v, hv⟩ : ∃ v, s.wordAt (s.reg rs1) = some v := by
      simpa [stopsAt, Option.isSome_iff_exists] using h
    rw [exec_ldr, hv]
    exact endsWell_finishWith (List.mem_singleton_self rd) rfl
  | ldrIo rd rs1 =>
    have ha : s.ioAnswered (s.reg rs1) = true := by simpa [stopsAt] using h
    exact ⟨_, (execLdrIo_eq rd rs1 s).trans (if_pos ha), .receives rd rs1 rfl⟩
  | str rd rs1 => exact ⟨_, exec_str rd rs1 s, .stores rd rs1 rfl⟩
  | strIo rd rs1 =>
    have ha : s.ioAnswered (s.reg rd) = true := by simpa [stopsAt] using h
    exact ⟨_, (execStrIo_eq rd rs1 s).trans (if_pos ha), .sends rd rs1 rfl⟩
  | jmrS0 rd rs1 => exact ⟨_, finishAt_eq _ s, .moves _ (by simp [isControlTransfer]) rfl⟩
  | jmrS1 rd _ | jmi rd _ => exact endsWell_link (List.mem_singleton_self rd) rfl rfl
  | anr rd _ _ | ani rd _ | anir rd _ _ | msi rd _ | mhi rd _ | slr rd _ _ | sar rd _ _
  | shiLogical rd _ | shiArith rd _ | adr rd _ _ | sur rd _ _ | adi rd _ | adir rd _ _ | sui rd _
  | suir rd _ _ | mull rd _ _ | ntrOnes rd _ | ntrTwos rd _ | ntdOnes rd | ntdTwos rd =>
    exact endsWell_finishWith (List.mem_singleton_self rd) rfl
  | mul rd _ _ | muls rd _ _ =>
    exact endsWell_finishWithPair (List.mem_pair.2 (.inl rfl)) (List.mem_pair.2 (.inr rfl)) rfl
  | div rd _ _ | divs rd _ _ =>
    exact endsWell_finishDivide (List.mem_pair.2 (.inl rfl)) (List.mem_pair.2 (.inr rfl)) rfl
  | divq rd rs1 rs2 =>
    change EndsWell _ s (execDivq rd rs1 rs2 s)
    unfold execDivq
    split <;> exact endsWell_finishQuotient (List.mem_singleton_self rd) rfl
  | cmr _ _ | cmrs _ _ | cmi _ _ | cmis _ _ => exact endsWell_flags rfl rfl
  | brc _ _ | brr _ _ => exact endsWell_branchTo (by simpa [stopsAt] using h) rfl rfl

/-- At one of its stops an instruction answers no next state. -/
theorem exec_stops {i : Instr} {s : State} (h : stopsAt i s = true) (t : State) : exec i s ≠ .next t := by
  cases i with
  | reserved0000 | reserved0001 | msiShadow _ _ => exact nofun
  | ldr rd rs1 =>
    have hv : s.wordAt (s.reg rs1) = none := by simpa [stopsAt] using h
    rw [exec_ldr, hv]
    exact nofun
  | ldrIo rd rs1 =>
    have ha : ¬ s.ioAnswered (s.reg rs1) = true := by simpa [stopsAt] using h
    change execLdrIo rd rs1 s ≠ _
    rw [execLdrIo_eq, if_neg ha]
    exact nofun
  | strIo rd rs1 =>
    have ha : ¬ s.ioAnswered (s.reg rd) = true := by simpa [stopsAt] using h
    change execStrIo rd rs1 s ≠ _
    rw [execStrIo_eq, if_neg ha]
    exact nofun
  | brc fib rd | brr fib rd =>
    have hc : condOfFib fib = none := by simpa [stopsAt] using h
    change branchTo fib _ s ≠ _
    rw [branchTo_eq, hc]
    exact nofun
  | str rd rs1 => simp [stopsAt] at h
  | _ => cases h

/-- A next state is reached in one of the seven ways. -/
theorem completes_of_exec {i : Instr} {s t : State} (h : exec i s = .next t) : Completes i s t := by
  have hstop : stopsAt i s = false := Bool.eq_false_iff.2 fun hs => exec_stops hs t h
  obtain ⟨u, hu, hcomp⟩ := exec_completes hstop
  cases hu.symm.trans h
  exact hcomp

/-- A step that answers a next state has executed some instruction. -/
theorem exists_exec_of_step {s t : State} (h : step s = .next t) : ∃ i, exec i s = .next t := by
  rw [step_eq] at h
  unfold runInstruction at h
  split at h
  · cases h
  · rw [decode_eq_row] at h
    exact ⟨_, h⟩

/-! ### The invariant -/

/-- Writing a word keeps the canonical form and the map. -/
theorem State.Inv.of_write {s t : State} (hs : s.Inv) {a v : Word} (ht : t.mem = s.mem.write a.toNat v) :
    t.Inv := by
  obtain ⟨hwf, _⟩ := hs
  unfold State.Inv
  rw [ht]
  exact ⟨Memory.wf_write hwf a v, fun c _ => memMapped_all _⟩

/-- The invariant speaks of memory alone. -/
theorem State.Inv.of_mem_eq {s t : State} (hs : s.Inv) (ht : t.mem = s.mem) : t.Inv := by
  unfold State.Inv at *
  rwa [ht]

/-- However an instruction completes, memory is as before or has one word written. -/
theorem Completes.mem {i : Instr} {s t : State} (h : Completes i s t) :
    t.mem = s.mem ∨ ∃ a v : Word, t.mem = s.mem.write a.toNat v := by
  cases h with
  | stores rd rs1 => exact .inr ⟨_, _, rfl⟩
  | _ => left; simp

/-- Settles O58: a step executes one instruction, and an instruction leaves memory or writes one word. -/
theorem everyStepKeepsTheInvariant : Obligations.EveryStepKeepsTheInvariant := by
  intro s t hs hstep
  obtain ⟨i, hi⟩ := exists_exec_of_step hstep
  obtain hmem | ⟨a, v, hmem⟩ := (completes_of_exec hi).mem
  · exact hs.of_mem_eq hmem
  · exact hs.of_write hmem

/-- Settles O57: reset memory lists nothing. -/
theorem resetMeetsTheInvariant : Obligations.ResetMeetsTheInvariant :=
  ⟨State.reset_mem_wf, fun _ ha => absurd ha List.not_mem_nil⟩

/-! ### What every instruction leaves unchanged -/

section
variable {i : Instr} {s t : State}

theorem Completes.reg (h : Completes i s t) {r : RegIdx} (hr : r ∉ destinations i)
    (hcmp : r = 15 → isCompare i = false) : t.reg r = s.reg r := by
  cases h with
  | moves | stores | sends => simp
  | writes rd v p n hrd =>
    rw [State.setPc_reg, State.reg_setReg_ne _ (ne_of_mem_of_not_mem hrd hr).symm,
      State.advanceDraws_reg]
  | writesPair rd v w n hrd hsecond =>
    rw [State.setPc_reg, State.reg_setReg_ne _ (ne_of_mem_of_not_mem hsecond hr).symm,
      State.reg_setReg_ne _ (ne_of_mem_of_not_mem hrd hr).symm, State.advanceDraws_reg]
  | flags g e hc =>
    have hne : r ≠ 15#4 := fun h15 => by simp [hcmp h15] at hc
    rw [State.setPc_reg, State.reg_setR15, if_neg hne]
  | receives rd rs1 hi =>
    subst hi
    rw [State.setPc_reg, State.reg_setReg_ne _ (List.ne_of_not_mem_cons hr), State.ioReceive_reg]

/-- A write to another register leaves R15. -/
theorem State.setReg_r15_ne (s : State) {rd : RegIdx} (h : rd ≠ 15) (v : Word) :
    (s.setReg rd v).r15 = s.r15 := (State.setReg_r15 s rd v).trans (if_neg h)

/-- The bits of R15 but G and E stay as they are, in a compare too. -/
theorem Completes.r15_bit (h : Completes i s t) (hr : 15 ∉ destinations i) {k : Nat} (h5 : k ≠ 5)
    (h4 : k ≠ 4) : t.r15.getLsbD k = s.r15.getLsbD k := by
  cases h with
  | flags g e => simp [withCompareFlags_bit, h5, h4]
  | writes rd v p n hrd =>
    rw [State.setPc_r15, State.setReg_r15_ne _ (ne_of_mem_of_not_mem hrd hr), State.advanceDraws_r15]
  | writesPair rd v w n hrd hsecond =>
    rw [State.setPc_r15, State.setReg_r15_ne _ (ne_of_mem_of_not_mem hsecond hr),
      State.setReg_r15_ne _ (ne_of_mem_of_not_mem hrd hr), State.advanceDraws_r15]
  | receives rd rs1 hi =>
    subst hi
    rw [State.setPc_r15, State.setReg_r15_ne _ (List.ne_of_not_mem_cons hr).symm,
      State.ioReceive_r15]
  | moves | stores | sends => rfl

theorem Completes.pc (h : Completes i s t) (hct : isControlTransfer i = false) : t.pc = s.pc + 1 := by
  cases h with
  | moves p hp => exact hp hct
  | writes rd v p n hrd hp => exact hp hct
  | _ => rfl

theorem Completes.wordAt (h : Completes i s t) {a : Word} (ha : storeAddress s i ≠ some a) :
    t.wordAt a = s.wordAt a := by
  cases h with
  | stores rd rs1 hi =>
    subst hi
    have hne : a ≠ s.reg rd := fun heq => ha (congrArg some heq.symm)
    rw [State.setPc_wordAt, State.wordAt_putWord_ne _ hne]
  | _ => simp

theorem Completes.sameIo (h : Completes i s t) (hio : accessesIo i = false) : SameIo s t := by
  cases h with
  | receives _ _ hi | sends _ _ hi => subst hi; cases hio
  | _ => exact ⟨by simp, by simp, by simp⟩

end

/-- Settles O50. -/
theorem onlyDestinationRegistersChange : Obligations.OnlyDestinationRegistersChange :=
  fun _ _ _ h _ hr hcmp => (completes_of_exec h).reg hr hcmp

/-- Settles O51: R15 as a register is O50's case; its bits but G and E are kept by a compare too. -/
theorem onlyComparesWriteFlagsImplicitly : Obligations.OnlyComparesWriteFlagsImplicitly := by
  intro i s t h hr
  refine ⟨fun hcmp => ?_, fun k h5 h4 => (completes_of_exec h).r15_bit hr h5 h4⟩
  rw [← State.reg_fifteen, ← State.reg_fifteen]
  exact (completes_of_exec h).reg hr fun _ => hcmp

/-- Settles O52. -/
theorem onlyControlTransfersSetPc : Obligations.OnlyControlTransfersSetPc :=
  fun _ _ _ h hct => (completes_of_exec h).pc hct

/-- Settles O53. -/
theorem onlyStoreChangesMemory : Obligations.OnlyStoreChangesMemory :=
  fun _ _ _ h _ ha => (completes_of_exec h).wordAt ha

/-- Settles O54: the two IO instructions by the state each ends in, the others by the frame. -/
theorem ioHistoryRecordsEachAccess : Obligations.IoHistoryRecordsEachAccess := by
  intro i s t h
  cases i with
  | ldrIo rd rs1 =>
    cases completes_of_exec h with
    | receives _ _ hi => cases hi; exact ⟨⟨(s.ioReceive (s.reg rs1)).1, by simp⟩, by simp, by simp⟩
    | _ => contradiction
  | strIo rd rs1 =>
    cases completes_of_exec h with
    | sends _ _ hi => cases hi; exact ⟨rfl, rfl, rfl⟩
    | _ => contradiction
  | _ => exact (completes_of_exec h).sameIo rfl

/-- Settles O55: at a stop there is no next state, elsewhere there is one. -/
theorem instructionsStopExactlyWhereListed : Obligations.InstructionsStopExactlyWhereListed := by
  intro i s
  constructor
  · rintro ⟨t, ht⟩
    exact Bool.eq_false_iff.2 fun hs => exec_stops hs t ht
  · intro hs
    obtain ⟨t, ht, _⟩ := exec_completes hs
    exact ⟨t, ht⟩

end Sys2Proof.Machine

/-! ## Decoding: from a word to its row and back (spec/30_encoding.md R90, R94, R95) -/

namespace Sys2Proof.Machine

/-! ### A word is the concatenation of its fields -/

section
variable (w : Word)

theorem opcode_append_eq : opcodeOf w ++ 0#12 = w &&& ~~~0x0FFF#16 := by
  rw [show ~~~0x0FFF#16 = 0xF000#16 from rfl, Laws.and_mask_eq (n := 12) (by decide)]
  ext k hk; simp [opcodeOf]; grind

theorem encodeR3_fields :
    encodeR3 (opcodeOf w) (rdOf w) (w.extractLsb' 4 4) (w.extractLsb' 8 4) = w := by
  ext k hk; simp [encodeR3_eq, opcodeOf, rdOf]; grind

theorem encodeI8_fields : encodeI8 (opcodeOf w) (rdOf w) (imm8Of w) = w := by
  ext k hk; simp [encodeI8, opcodeOf, rdOf, imm8Of]; grind

theorem encodeRI4_fields : encodeRI4 (opcodeOf w) (rdOf w) (rs1Of w) (imm4Of w) = w := by
  ext k hk; simp [encodeRI4, opcodeOf, rdOf, rs1Of, imm4Of]; grind

theorem encodeJ6_fields : encodeJ6 (opcodeOf w ++ extOf w) (rdOf w) (imm6Of w) = w := by
  ext k hk; simp [encodeJ6, opcodeOf, extOf, rdOf, imm6Of]; grind

/-- The bits IR[15:9], which choose the row in opcodes 0010 and 1111 (R91). -/
def top7Of : BitVec 7 := opcodeOf w ++ extOf w ++ BitVec.ofBool (w.getLsbD 9)

theorem encodeI5_fields : encodeI5 (top7Of w) (rdOf w) (v5Of w) = w := by
  ext k hk; simp [encodeI5, top7Of, opcodeOf, extOf, rdOf, v5Of]; grind

theorem encodeX2_fields :
    encodeX2 (top7Of w ++ BitVec.ofBool (w.getLsbD 8)) (rdOf w) (rs1Of w) = w := by
  ext k hk; simp [encodeX2, top7Of, opcodeOf, extOf, rdOf, rs1Of]; grind

theorem encodeX2_fields_unused8 :
    encodeX2 (top7Of w ++ 0#1) (rdOf w) (rs1Of w) = w &&& ~~~0x0100#16 := by
  apply BitVec.eq_of_getLsbD_eq
  intro k hk
  simp only [encodeX2, top7Of, opcodeOf, extOf, rdOf, rs1Of, BitVec.getLsbD_append]
  interval_cases k <;> simp

theorem encodeX2_fields_unused4 :
    encodeX2 (top7Of w ++ BitVec.ofBool (w.getLsbD 8)) (rdOf w) 0#4 = w &&& ~~~0x00F0#16 := by
  apply BitVec.eq_of_getLsbD_eq
  intro k hk
  simp only [encodeX2, top7Of, opcodeOf, extOf, rdOf, BitVec.getLsbD_append]
  interval_cases k <;> simp

end

/-! ### The decoded row, walked down the opcode map -/

/-- R15 selects the row of `i`, and `w` with the bits that stand for no operand cleared is the word of `i`. -/
def RowFits (r15 w : Word) (i : Instr) : Prop :=
  i.selectedBy r15 = true ∧ encode i = w &&& ~~~i.unusedBits

/-- A row without unused bits, whose word is `w` itself, fits where R15 selects it. -/
theorem RowFits.of_eq {r15 w : Word} {i : Instr} (hsel : i.selectedBy r15 = true)
    (hbits : i.unusedBits = 0#16) (henc : encode i = w) : RowFits r15 w i :=
  ⟨hsel, by rw [henc, hbits]; exact BitVec.and_allOnes.symm⟩

section
variable {r15 w : Word} {i : Instr} {op : BitVec 4} (hsel : i.selectedBy r15 = true)
  (hbits : i.unusedBits = 0#16)
include hsel hbits

theorem RowFits.of_r3 (henc : encode i = encodeR3 op (rdOf w) (r3Rs1Of w) (r3Rs2Of w))
    (hop : (opcodeOf w).toNat = op.toNat) : RowFits r15 w i :=
  .of_eq hsel hbits (by rw [henc, ← BitVec.eq_of_toNat_eq hop]; exact encodeR3_fields w)

theorem RowFits.of_i8 (henc : encode i = encodeI8 op (rdOf w) (imm8Of w))
    (hop : (opcodeOf w).toNat = op.toNat) : RowFits r15 w i :=
  .of_eq hsel hbits (by rw [henc, ← BitVec.eq_of_toNat_eq hop]; exact encodeI8_fields w)

theorem RowFits.of_ri4 (henc : encode i = encodeRI4 op (rdOf w) (rs1Of w) (imm4Of w))
    (hop : (opcodeOf w).toNat = op.toNat) : RowFits r15 w i :=
  .of_eq hsel hbits (by rw [henc, ← BitVec.eq_of_toNat_eq hop]; exact encodeRI4_fields w)

end

/-- An extension that is none of 0, 1, 2 is 3. -/
theorem extOf_eq_three {w : Word} (h0 : (extOf w).toNat ≠ 0) (h1 : (extOf w).toNat ≠ 1)
    (h2 : (extOf w).toNat ≠ 2) : extOf w = 3#2 := by
  bv_omega

section
variable (r15 : Word) {w : Word}

/-- Opcode 0010: the two bits IR[11:10] and then IR[9] choose the row (R91 (4)). -/
theorem decodeTransferOrJump_fits (hop : opcodeOf w = 2#4) : RowFits r15 w (decodeTransferOrJump w) := by
  have hword := encodeX2_fields_unused8 w
  unfold decodeTransferOrJump
  split
  next hext =>
    rw [top7Of, hop, BitVec.eq_of_toNat_eq (y := 0#2) hext] at hword
    split <;> rename_i h9 <;> simp only [h9] at hword <;> exact ⟨rfl, hword⟩
  next hext =>
    rw [top7Of, hop, BitVec.eq_of_toNat_eq (y := 1#2) hext] at hword
    split <;> rename_i h9 <;> simp only [h9] at hword <;> exact ⟨rfl, hword⟩
  next hext =>
    rw [top7Of, hop, BitVec.eq_of_toNat_eq (y := 2#2) hext] at hword
    split <;> rename_i h9 <;> simp only [h9] at hword <;> exact ⟨rfl, hword⟩
  next h0 h1 h2 =>
    have hjmi := encodeJ6_fields w
    rw [hop, extOf_eq_three h0 h1 h2] at hjmi
    exact .of_eq rfl rfl hjmi

/-- Opcode 1111: IR[11:10], IR[9], and then IR[8] for NTR and NTD (R91 (5)), the compares by the shadow bit
SH_CMPS besides. -/
theorem decodeExtended_fits (hop : opcodeOf w = 15#4) : RowFits r15 w (decodeExtended r15 w) := by
  have hi5 := encodeI5_fields w
  have hx2 := encodeX2_fields w
  have hunused8 := encodeX2_fields_unused8 w
  have hunused4 := encodeX2_fields_unused4 w
  rw [top7Of, hop] at hi5 hx2 hunused8 hunused4
  unfold decodeExtended
  split
  next hext =>
    rw [BitVec.eq_of_toNat_eq (y := 0#2) hext] at hi5 hunused8
    split <;> rename_i h9 <;> simp only [h9] at hi5 hunused8 <;> split <;> rename_i hcmps
    · exact .of_eq hcmps rfl hi5
    · exact .of_eq (by simp [Instr.selectedBy, hcmps]) rfl hi5
    · exact ⟨hcmps, hunused8⟩
    · exact ⟨by simp [Instr.selectedBy, hcmps], hunused8⟩
  next hext =>
    rw [BitVec.eq_of_toNat_eq (y := 1#2) hext] at hi5
    split <;> rename_i h9 <;> simp only [h9] at hi5 <;> exact .of_eq rfl rfl hi5
  next hext =>
    rw [BitVec.eq_of_toNat_eq (y := 2#2) hext] at hi5
    split <;> rename_i h9 <;> simp only [h9] at hi5 <;> exact .of_eq rfl rfl hi5
  next h0 h1 h2 =>
    rw [extOf_eq_three h0 h1 h2] at hx2 hunused4
    split <;> rename_i h9 <;> split <;> rename_i h8 <;> simp only [h9, h8] at hx2 hunused4
    · exact ⟨rfl, hunused4⟩
    · exact ⟨rfl, hunused4⟩
    · exact .of_eq rfl rfl hx2
    · exact .of_eq rfl rfl hx2

/-- Every word fits the row it decodes to: the opcode chooses the row or the next field to look at, and a
shadow bit chooses between rows of one opcode (R90, R95). -/
theorem decodeRow_fits (w : Word) : RowFits r15 w (decodeRow r15 w) := by
  have hreserved := opcode_append_eq w
  unfold decodeRow
  split
  next hop =>
    rw [BitVec.eq_of_toNat_eq (y := 0#4) hop] at hreserved
    exact ⟨rfl, hreserved⟩
  next hop =>
    rw [BitVec.eq_of_toNat_eq (y := 1#4) hop] at hreserved
    exact ⟨rfl, hreserved⟩
  next hop => exact decodeTransferOrJump_fits r15 (BitVec.eq_of_toNat_eq hop)
  next hop => exact .of_r3 rfl rfl rfl hop
  next hop =>
    split <;> rename_i himr
    · exact .of_ri4 himr rfl rfl hop
    · exact .of_i8 (by simp [Instr.selectedBy, himr]) rfl rfl hop
  next hop =>
    split <;> rename_i hmsi
    · exact .of_i8 hmsi rfl rfl hop
    · exact .of_i8 (by simp [Instr.selectedBy, hmsi]) rfl rfl hop
  next hop => exact .of_i8 rfl rfl rfl hop
  next hop => exact .of_r3 rfl rfl rfl hop
  next hop => exact .of_r3 rfl rfl rfl hop
  next hop => exact .of_r3 rfl rfl rfl hop
  next hop => exact .of_r3 rfl rfl rfl hop
  next hop =>
    split <;> rename_i himr
    · exact .of_ri4 himr rfl rfl hop
    · exact .of_i8 (by simp [Instr.selectedBy, himr]) rfl rfl hop
  next hop =>
    split <;> rename_i himr
    · exact .of_ri4 himr rfl rfl hop
    · exact .of_i8 (by simp [Instr.selectedBy, himr]) rfl rfl hop
  next hop =>
    split <;> rename_i hmull
    · exact .of_r3 hmull rfl rfl hop
    · split <;> rename_i hsgn <;> exact .of_r3 (by simp [Instr.selectedBy, hmull, hsgn]) rfl rfl hop
  next hop =>
    split <;> rename_i hdivq
    · exact .of_r3 hdivq rfl rfl hop
    · split <;> rename_i hsgn <;> exact .of_r3 (by simp [Instr.selectedBy, hdivq, hsgn]) rfl rfl hop
  next =>
    simp only [imp_false] at *
    exact decodeExtended_fits r15 (by bv_omega)

end

/-- Settles O2: the decoder answers the row of the word, and the word fits it. -/
theorem decodedInstructionEncodesToItsWord : Obligations.DecodedInstructionEncodesToItsWord := by
  intro r15 w i h
  rw [decode_eq_row] at h
  cases h
  exact decodeRow_fits r15 w

/-! ### The (match, mask) pairs of the opcode table -/

/-- An instruction's own word lies in its row. -/
theorem encode_and_rowMask (i : Instr) : encode i &&& i.rowMask = i.rowMatch := by
  cases i with
  | reserved0000 => exact Laws.RowPattern.reserved0000
  | reserved0001 => exact Laws.RowPattern.reserved0001
  | ldr rd rs1 => exact Laws.RowPattern.ldr rd rs1
  | ldrIo rd rs1 => exact Laws.RowPattern.ldrIo rd rs1
  | str rd rs1 => exact Laws.RowPattern.str rd rs1
  | strIo rd rs1 => exact Laws.RowPattern.strIo rd rs1
  | jmrS0 rd rs1 => exact Laws.RowPattern.jmrS0 rd rs1
  | jmrS1 rd rs1 => exact Laws.RowPattern.jmrS1 rd rs1
  | jmi rd imm6 => exact Laws.RowPattern.jmi rd imm6
  | anr rd rs1 rs2 => exact Laws.RowPattern.anr rd rs1 rs2
  | ani rd imm8 => exact Laws.RowPattern.ani rd imm8
  | anir rd rs1 imm4 => exact Laws.RowPattern.anir rd rs1 imm4
  | msi rd imm8 => exact Laws.RowPattern.msi rd imm8
  | msiShadow rd imm8 => exact Laws.RowPattern.msiShadow rd imm8
  | mhi rd imm8 => exact Laws.RowPattern.mhi rd imm8
  | slr rd rs1 rs2 => exact Laws.RowPattern.slr rd rs1 rs2
  | sar rd rs1 rs2 => exact Laws.RowPattern.sar rd rs1 rs2
  | adr rd rs1 rs2 => exact Laws.RowPattern.adr rd rs1 rs2
  | sur rd rs1 rs2 => exact Laws.RowPattern.sur rd rs1 rs2
  | adi rd imm8 => exact Laws.RowPattern.adi rd imm8
  | adir rd rs1 imm4 => exact Laws.RowPattern.adir rd rs1 imm4
  | sui rd imm8 => exact Laws.RowPattern.sui rd imm8
  | suir rd rs1 imm4 => exact Laws.RowPattern.suir rd rs1 imm4
  | mul rd rs1 rs2 => exact Laws.RowPattern.mul rd rs1 rs2
  | muls rd rs1 rs2 => exact Laws.RowPattern.muls rd rs1 rs2
  | mull rd rs1 rs2 => exact Laws.RowPattern.mull rd rs1 rs2
  | div rd rs1 rs2 => exact Laws.RowPattern.div rd rs1 rs2
  | divs rd rs1 rs2 => exact Laws.RowPattern.divs rd rs1 rs2
  | divq rd rs1 rs2 => exact Laws.RowPattern.divq rd rs1 rs2
  | cmr rs1 rd => exact Laws.RowPattern.cmr rs1 rd
  | cmrs rs1 rd => exact Laws.RowPattern.cmrs rs1 rd
  | cmi imm5 rd => exact Laws.RowPattern.cmi imm5 rd
  | cmis imm5 rd => exact Laws.RowPattern.cmis imm5 rd
  | brc fib rd => exact Laws.RowPattern.brc fib rd
  | brr fib rd => exact Laws.RowPattern.brr fib rd
  | shiLogical rd shim => exact Laws.RowPattern.shiLogical rd shim
  | shiArith rd shim => exact Laws.RowPattern.shiArith rd shim
  | ntrOnes rd rs1 => exact Laws.RowPattern.ntrOnes rd rs1
  | ntrTwos rd rs1 => exact Laws.RowPattern.ntrTwos rd rs1
  | ntdOnes rd => exact Laws.RowPattern.ntdOnes rd
  | ntdTwos rd => exact Laws.RowPattern.ntdTwos rd

/-- No unused bit is a fixed bit of its row. -/
theorem unusedBits_and_rowMask (i : Instr) : ~~~i.unusedBits &&& i.rowMask = i.rowMask := by
  cases i <;> simp only [Instr.unusedBits, Instr.rowMask] <;> rfl

/-- A word that fits a row has the row's fixed bits. -/
theorem RowFits.and_rowMask {r15 w : Word} {i : Instr} (h : RowFits r15 w i) :
    w &&& i.rowMask = i.rowMatch := by
  obtain ⟨-, henc⟩ := h
  calc w &&& i.rowMask = (w &&& ~~~i.unusedBits) &&& i.rowMask := by
        rw [BitVec.and_assoc, unusedBits_and_rowMask]
    _ = i.rowMatch := by rw [← henc, encode_and_rowMask]

/-- The (mask, match) pairs of spec/opcode_table.json; a shadow row has its base row's pair (R95). -/
def tableRows : List (Word × Word) :=
  [(0xF000, 0x0000), (0xF000, 0x1000), (0xFE00, 0x2000), (0xFE00, 0x2200), (0xFE00, 0x2400),
   (0xFE00, 0x2600), (0xFE00, 0x2800), (0xFE00, 0x2A00), (0xFC00, 0x2C00), (0xF000, 0x3000),
   (0xF000, 0x4000), (0xF000, 0x5000), (0xF000, 0x6000), (0xF000, 0x7000), (0xF000, 0x8000),
   (0xF000, 0x9000), (0xF000, 0xA000), (0xF000, 0xB000), (0xF000, 0xC000), (0xF000, 0xD000),
   (0xF000, 0xE000), (0xFE00, 0xF000), (0xFE00, 0xF200), (0xFE00, 0xF400), (0xFE00, 0xF600),
   (0xFE00, 0xF800), (0xFE00, 0xFA00), (0xFF00, 0xFC00), (0xFF00, 0xFD00), (0xFF00, 0xFE00),
   (0xFF00, 0xFF00)]

theorem mem_tableRows (i : Instr) : (i.rowMask, i.rowMatch) ∈ tableRows := by
  cases i <;> simp [tableRows, Instr.rowMask, Instr.rowMatch]

/-- Two pairs whose matches agree on the bits that both masks fix are one pair. -/
theorem tableRows_disjoint :
    ∀ p ∈ tableRows, ∀ q ∈ tableRows, p.2 &&& q.1 = q.2 &&& p.1 → p = q := by
  have h : (tableRows.all fun p => tableRows.all fun q =>
      decide (p.2 &&& q.1 = q.2 &&& p.1 → p = q)) = true := by rfl
  simpa only [List.all_eq_true, decide_eq_true_eq] using h

/-- Settles O3: the decoded row has the word's fixed bits; a word in two rows makes their matches agree on
the bits both fix, and the table has no two such pairs. -/
theorem everyWordDecodesToOneTableRow : Obligations.EveryWordDecodesToOneTableRow := by
  intro r15 w
  have hrow := (decodeRow_fits r15 w).and_rowMask
  refine ⟨decodeRow r15 w, decode_eq_row r15 w, hrow, fun j hj => ?_⟩
  have hagree : j.rowMatch &&& (decodeRow r15 w).rowMask = (decodeRow r15 w).rowMatch &&& j.rowMask := by
    rw [← hj, ← hrow, BitVec.and_assoc, BitVec.and_assoc, BitVec.and_comm j.rowMask]
  exact Prod.ext_iff.1 (tableRows_disjoint _ (mem_tableRows j) _ (mem_tableRows _) hagree)

/-! ### What of R15 the decoder reads -/

/-- Words that agree under a mask agree in every bit the mask keeps. -/
theorem getLsbD_eq_of_and_eq {x y m : Word} (h : x &&& m = y &&& m) {k : Nat} (hk : m.getLsbD k = true) :
    x.getLsbD k = y.getLsbD k := by
  have hbit := congrArg (BitVec.getLsbD · k) h
  simpa [BitVec.getLsbD_and, hk] using hbit

/-- Settles O5: the decoder reads R15 through six shadow bits, each inside the mask. -/
theorem decodingReadsOnlyAssignedShadowBits : Obligations.DecodingReadsOnlyAssignedShadowBits := by
  intro x y w h
  have himr : shImr x = shImr y := getLsbD_eq_of_and_eq h rfl
  have hmsi : shMsi x = shMsi y := getLsbD_eq_of_and_eq h rfl
  have hmull : shMull x = shMull y := getLsbD_eq_of_and_eq h rfl
  have hsgn : shSgn x = shSgn y := getLsbD_eq_of_and_eq h rfl
  have hdivq : shDivq x = shDivq y := getLsbD_eq_of_and_eq h rfl
  have hcmps : shCmps x = shCmps y := getLsbD_eq_of_and_eq h rfl
  simp only [decode_eq_row, decodeRow, decodeExtended, himr, hmsi, hmull, hsgn, hdivq, hcmps]

/-- Settles O4: each of the twelve readings is computed. -/
theorem specExampleWordsDecode : Obligations.SpecExampleWordsDecode := by
  unfold Obligations.SpecExampleWordsDecode
  decide

/-! ### Rows that stop the machine -/

/-- Settles O48. -/
theorem reservedOpcodesFault : Obligations.ReservedOpcodesFault :=
  fun s rest => ⟨decode_reserved0000 s.r15 rest, decode_reserved0001 s.r15 rest, rfl, rfl⟩

/-- Settles O25: the shadow bit selects the row, and `MSI_SHADOW` refuses it (log 9). -/
theorem moveShadowIsRefused : Obligations.MoveShadowIsRefused :=
  fun _ rd imm8 h => ⟨decode_msiShadow rd h imm8, rfl⟩

end Sys2Proof.Machine

/-! ## Instructions with one result

Each is a row its word spells, a meaning that ends in `finishWith`, and a value in the spec's form;
`finishWith_frame` says what the rest of the state keeps. -/

namespace Sys2Proof.Machine

/-! ### The meanings, each the end with one result -/

section
variable (rd rs1 rs2 : RegIdx) (imm8 : BitVec 8) (imm4 : BitVec 4) (shim : BitVec 5) (s : State)

theorem exec_anr : exec (.anr rd rs1 rs2) s = finishWith rd (s.reg rs1 &&& s.reg rs2) s := rfl
theorem exec_anir : exec (.anir rd rs1 imm4) s = finishWith rd (s.reg rs1 &&& zext16 imm4) s := rfl
theorem exec_slr : exec (.slr rd rs1 rs2) s =
    finishWith rd (shift (s.reg rs1) (registerShiftAmount (s.reg rs2)) .logical) s := rfl
theorem exec_sar : exec (.sar rd rs1 rs2) s =
    finishWith rd (shift (s.reg rs1) (registerShiftAmount (s.reg rs2)) .arithmetic) s := rfl
theorem exec_shiLogical : exec (.shiLogical rd shim) s =
    finishWith rd (shift (s.reg rd) (signMagnitudeAmount shim) .logical) s := rfl
theorem exec_shiArith : exec (.shiArith rd shim) s =
    finishWith rd (shift (s.reg rd) (signMagnitudeAmount shim) .arithmetic) s := rfl
theorem exec_adr : exec (.adr rd rs1 rs2) s = finishWith rd (s.reg rs1 + s.reg rs2) s := rfl
theorem exec_sur : exec (.sur rd rs1 rs2) s = finishWith rd (s.reg rs1 - s.reg rs2) s := rfl
theorem exec_adi : exec (.adi rd imm8) s = finishWith rd (s.reg rd + sext16 imm8) s := rfl
theorem exec_adir : exec (.adir rd rs1 imm4) s = finishWith rd (s.reg rs1 + sext16 imm4) s := rfl
theorem exec_sui : exec (.sui rd imm8) s = finishWith rd (s.reg rd - sext16 imm8) s := rfl
theorem exec_suir : exec (.suir rd rs1 imm4) s = finishWith rd (s.reg rs1 - sext16 imm4) s := rfl
theorem exec_mull : exec (.mull rd rs1 rs2) s =
    finishWith rd (lowHalf (unsignedProduct (s.reg rs1) (s.reg rs2))) s := rfl
theorem exec_ntrOnes : exec (.ntrOnes rd rs1) s = finishWith rd (onesComplement (s.reg rs1)) s := rfl
theorem exec_ntrTwos : exec (.ntrTwos rd rs1) s = finishWith rd (twosComplement (s.reg rs1)) s := rfl
theorem exec_ntdOnes : exec (.ntdOnes rd) s = finishWith rd (onesComplement (s.reg rd)) s := rfl
theorem exec_ntdTwos : exec (.ntdTwos rd) s = finishWith rd (twosComplement (s.reg rd)) s := rfl

end

/-- A destination other than R0 holds the value written. -/
theorem writtenTo_of_ne {rd : RegIdx} (h : rd ≠ 0) (v : Word) : writtenTo rd v = v := if_neg h

/-! ### The values as the spec writes them -/

/-- The sum modulo 2^16 is that of the signed readings. -/
theorem add_eq_ofInt (a b : Word) : a + b = BitVec.ofInt 16 (a.toInt + b.toInt) := by
  rw [BitVec.ofInt_add, BitVec.ofInt_toInt, BitVec.ofInt_toInt]

/-- The difference modulo 2^16 is that of the signed readings. -/
theorem sub_eq_ofInt (a b : Word) : a - b = BitVec.ofInt 16 (a.toInt - b.toInt) := by
  rw [Int.sub_eq_add_neg, BitVec.ofInt_add, BitVec.ofInt_neg, BitVec.ofInt_toInt, BitVec.ofInt_toInt,
    BitVec.sub_eq_add_neg]

/-- Sign extension keeps the signed value of an immediate (R10). -/
theorem toInt_sext16 {n : Nat} (hn : n ≤ 16) (v : BitVec n) : (sext16 v).toInt = v.toInt :=
  BitVec.toInt_signExtend_of_le hn

/-- The low half of the exact product is the same for both readings of the operands (R174). -/
theorem ofNat_mul_toNat_eq_ofInt_mul_toInt (a b : Word) :
    BitVec.ofNat 16 (a.toNat * b.toNat) = BitVec.ofInt 16 (a.toInt * b.toInt) := by
  rw [BitVec.ofNat_mul, BitVec.ofInt_mul, BitVec.ofInt_toInt, BitVec.ofInt_toInt]
  simp

theorem onesComplement_bit (v : Word) {k : Nat} (hk : k < 16) :
    (onesComplement v).getLsbD k = !v.getLsbD k := by
  simp [onesComplement, hk]

theorem twosComplement_eq_onesComplement_add (v : Word) : twosComplement v = onesComplement v + 1 := rfl

/-- The two's complement negates modulo 2^16 (R192). -/
theorem twosComplement_eq_ofInt (v : Word) : twosComplement v = BitVec.ofInt 16 (-v.toInt) := by
  rw [BitVec.ofInt_neg, BitVec.ofInt_toInt, BitVec.neg_eq_not_add]
  rfl

/-! ### Logic, sums, differences, complements -/

/-- Settles O21. -/
theorem andRegistered : Obligations.AndRegistered := by
  intro s rd rs1 rs2
  refine ⟨decode_anr s.r15 rd rs1 rs2, ?_⟩
  rw [exec_anr]
  exact finishWith_frame rd _ s

/-- Settles O23: the zero-extended immediate has twelve zeros above it (log 27). -/
theorem andImmediateRegister : Obligations.AndImmediateRegister := by
  intro s rd rs1 imm4 himr
  refine ⟨decode_anir rd rs1 himr imm4, ?_⟩
  rw [exec_anir, zext16, BitVec.setWidth_eq_append (by decide : 4 ≤ 16)]
  exact finishWith_frame rd _ s

/-- Settles O31. -/
theorem addRegistered : Obligations.AddRegistered := by
  intro s rd rs1 rs2
  refine ⟨decode_adr s.r15 rd rs1 rs2, ?_⟩
  rw [exec_adr, BitVec.add_def]
  exact finishWith_frame rd _ s

/-- Settles O32: the difference is that of the signed readings. -/
theorem subtractRegistered : Obligations.SubtractRegistered := by
  intro s rd rs1 rs2
  refine ⟨decode_sur s.r15 rd rs1 rs2, ?_⟩
  rw [exec_sur, sub_eq_ofInt]
  exact finishWith_frame rd _ s

/-- Settles O33: the sum is that of the signed readings, and the immediate keeps its value. -/
theorem addImmediate : Obligations.AddImmediate := by
  intro s rd imm8 himr
  refine ⟨decode_adi rd himr imm8, ?_⟩
  rw [exec_adi, add_eq_ofInt, toInt_sext16 (by decide)]
  exact finishWith_frame rd _ s

/-- Settles O34. -/
theorem addImmediateRegister : Obligations.AddImmediateRegister := by
  intro s rd rs1 imm4 himr
  refine ⟨decode_adir rd rs1 himr imm4, ?_⟩
  rw [exec_adir, add_eq_ofInt, toInt_sext16 (by decide)]
  exact finishWith_frame rd _ s

/-- Settles O35. -/
theorem subtractImmediate : Obligations.SubtractImmediate := by
  intro s rd imm8 himr
  refine ⟨decode_sui rd himr imm8, ?_⟩
  rw [exec_sui, sub_eq_ofInt, toInt_sext16 (by decide)]
  exact finishWith_frame rd _ s

/-- Settles O36. -/
theorem subtractImmediateRegister : Obligations.SubtractImmediateRegister := by
  intro s rd rs1 imm4 himr
  refine ⟨decode_suir rd rs1 himr imm4, ?_⟩
  rw [exec_suir, sub_eq_ofInt, toInt_sext16 (by decide)]
  exact finishWith_frame rd _ s

/-- Settles O37: `rd` other than R0 holds the sum less 2^16 exactly when the exact sum reaches 2^16. -/
theorem carryShowsAsASmallerSum : Obligations.CarryShowsAsASmallerSum := by
  intro s rd rs1 rs2 hrd
  obtain ⟨t, ht, hreg, -⟩ := finishWith_frame rd (s.reg rs1 + s.reg rs2) s
  refine ⟨t, (exec_adr rd rs1 rs2 s).trans ht, ?_⟩
  rw [hreg, writtenTo_of_ne hrd]
  bv_omega

/-- Settles O40: the low half of the product has both readings. -/
theorem multiplyLow : Obligations.MultiplyLow := by
  intro s rd rs1 rs2 hmull
  refine ⟨decode_mull rd rs1 rs2 hmull, ?_⟩
  rw [exec_mull, lowHalf_unsignedProduct]
  obtain ⟨t, ht, hreg, hframe⟩ := finishWith_frame rd _ s
  exact ⟨t, _, ht, hreg, rfl, ofNat_mul_toNat_eq_ofInt_mul_toInt _ _, hframe⟩

/-- Settles O46: c = 0 inverts every bit, c = 1 negates. -/
theorem complementRegistered : Obligations.ComplementRegistered := by
  intro s rd rs1
  refine ⟨decode_ntrOnes s.r15 rd rs1, decode_ntrTwos s.r15 rd rs1, ?_, ?_⟩
  · rw [exec_ntrOnes]
    obtain ⟨t, ht, hreg, hframe⟩ := finishWith_frame rd _ s
    exact ⟨t, _, ht, hreg, fun _ hk => onesComplement_bit _ hk, hframe⟩
  · rw [exec_ntrTwos, twosComplement_eq_ofInt]
    exact finishWith_frame rd _ s

/-- Settles O47: c = 0 inverts every bit in place, c = 1 adds one to that. -/
theorem complementInPlace : Obligations.ComplementInPlace := by
  intro s rd unused
  refine ⟨decode_ntdOnes s.r15 rd unused, decode_ntdTwos s.r15 rd unused, ?_, ?_⟩
  · rw [exec_ntdOnes]
    obtain ⟨t, ht, hreg, hframe⟩ := finishWith_frame rd _ s
    exact ⟨t, _, ht, hreg, fun _ hk => onesComplement_bit _ hk, hframe⟩
  · rw [exec_ntdTwos, twosComplement_eq_onesComplement_add]
    obtain ⟨t, ht, hreg, hframe⟩ := finishWith_frame rd _ s
    exact ⟨t, _, ht, hreg, fun _ hk => onesComplement_bit _ hk, hframe⟩

/-! ### The two moves of a constant -/

/-- Two instructions in a row with the same destinations change only those. -/
theorem ChangesOnly.trans {dests : List RegIdx} {p q : Word} {s t u : State}
    (hst : ChangesOnly dests p s t) (htu : ChangesOnly dests q t u) : ChangesOnly dests q s u where
  regs r hr := (htu.regs r hr).trans (hst.regs r hr)
  pc := htu.pc
  memory a := (htu.memory a).trans (hst.memory a)
  io := by
    obtain ⟨hlog, hin, hmap⟩ := hst.io
    obtain ⟨hlog', hin', hmap'⟩ := htu.io
    exact ⟨hlog'.trans hlog, hin'.trans hin, hmap'.trans hmap⟩

/-- A high byte above the kept low byte of a sign-extended low byte is the word of the two bytes. -/
theorem append_extract_signExtend (v : Word) :
    v.extractLsb' 8 8 ++ ((v.extractLsb' 0 8).signExtend 16).extractLsb' 0 8 = v := by
  apply BitVec.eq_of_getLsbD_eq
  intro k hk
  simp only [BitVec.getLsbD_append, BitVec.getLsbD_extractLsb', BitVec.getLsbD_signExtend]
  grind

/-- Settles O27: MSI leaves the low byte in `rd`, MHI keeps it and puts the high byte above it. -/
theorem twoMovesBuildAnyConstant : Obligations.TwoMovesBuildAnyConstant := by
  intro s rd v hrd
  obtain ⟨t, ht, hregt, hframet⟩ := finishWith_frame rd ((v.extractLsb' 0 8).signExtend 16) s
  obtain ⟨u, hu, hregu, hframeu⟩ :=
    finishWith_frame rd (v.extractLsb' 8 8 ++ (t.reg rd).extractLsb' 0 8) t
  refine ⟨t, u, (exec_msi ..).trans ht, (exec_mhi ..).trans hu, ?_, ?_⟩
  · rw [hregu, hregt, writtenTo_of_ne hrd, writtenTo_of_ne hrd, append_extract_signExtend]
  · have hpc : t.pc + 1 = s.pc + 2 := by rw [hframet.pc]; bv_omega
    rw [← hpc]
    exact hframet.trans hframeu

/-! ### Shifts, bit by bit (R150) -/

/-- A register's amount: its bit 4 is the sign, 1 for left, its bits 3:0 the magnitude (R148; log 14). -/
theorem registerShiftAmount_eq (v : Word) :
    registerShiftAmount v = if v.getLsbD 4 = true then .left (v.extractLsb' 0 4).toNat
      else .right (v.extractLsb' 0 4).toNat := by
  have hsign : (v.extractLsb' 0 5).getLsbD 4 = v.getLsbD 4 := by simp
  have hmag : (v.extractLsb' 0 5).extractLsb' 0 4 = v.extractLsb' 0 4 := by
    ext k hk; simp
  unfold registerShiftAmount signMagnitudeAmount
  simp only [Settings.shiftRegAmount, hsign, hmag]

section
variable (v : Word) (left : Prop) [Decidable left] (n : Nat)

theorem shift_logical_bit {k : Nat} (hk : k < 16) :
    (shift v (if left then .left n else .right n) .logical).getLsbD k =
      if left then decide (n ≤ k) && v.getLsbD (k - n) else v.getLsbD (k + n) := by
  split
  · rw [shift_left_bit, decide_eq_true hk, Bool.true_and]
  · rw [shift_right_logical_bit, Nat.add_comm]

theorem shift_arithmetic_bit {k : Nat} (hk : k < 16) :
    (shift v (if left then .left n else .right n) .arithmetic).getLsbD k =
      if left then decide (n ≤ k) && v.getLsbD (k - n)
      else if k + n < 16 then v.getLsbD (k + n) else v.getLsbD 15 := by
  split
  · rw [shift_left_bit, decide_eq_true hk, Bool.true_and]
  · rw [shift_right_arithmetic_bit v n k hk, Nat.add_comm]

end

/-- Settles O28. -/
theorem shiftLogicalRegistered : Obligations.ShiftLogicalRegistered := by
  intro s rd rs1 rs2
  refine ⟨decode_slr s.r15 rd rs1 rs2, ?_⟩
  rw [exec_slr, registerShiftAmount_eq]
  obtain ⟨t, ht, hreg, hframe⟩ := finishWith_frame rd _ s
  exact ⟨t, _, ht, hreg, hframe, fun _ hk => shift_logical_bit _ _ _ hk⟩

/-- Settles O29. -/
theorem shiftArithmeticRegistered : Obligations.ShiftArithmeticRegistered := by
  intro s rd rs1 rs2
  refine ⟨decode_sar s.r15 rd rs1 rs2, ?_⟩
  rw [exec_sar, registerShiftAmount_eq]
  obtain ⟨t, ht, hreg, hframe⟩ := finishWith_frame rd _ s
  exact ⟨t, _, ht, hreg, hframe, fun _ hk => shift_arithmetic_bit _ _ _ hk⟩

/-- Settles O30: the immediate is written as its sign and its magnitude. -/
theorem shiftImmediate : Obligations.ShiftImmediate := by
  intro s rd sign mag
  refine ⟨decode_shiLogical s.r15 rd _, decode_shiArith s.r15 rd _, ?_, ?_⟩
  · rw [exec_shiLogical, signMagnitudeAmount_append]
    obtain ⟨t, ht, hreg, hframe⟩ := finishWith_frame rd _ s
    exact ⟨t, _, ht, hreg, hframe, fun _ hk => shift_logical_bit _ _ _ hk⟩
  · rw [exec_shiArith, signMagnitudeAmount_append]
    obtain ⟨t, ht, hreg, hframe⟩ := finishWith_frame rd _ s
    exact ⟨t, _, ht, hreg, hframe, fun _ hk => shift_arithmetic_bit _ _ _ hk⟩

end Sys2Proof.Machine

/-! ## Multiply and divide (spec/45_mul_div.md R170 to R181) -/

namespace Sys2Proof.Machine

/-! ### The ends with two results, and the meanings -/

/-- `finishWithPair` completes: `rd` holds `v` and `rd + 1` holds `w` (R0 discards either), the rest is
kept. -/
theorem finishWithPair_frame (rd : RegIdx) (v w : Word) (s : State) :
    ∃ t, finishWithPair rd v w s = .next t ∧ t.reg rd = writtenTo rd v ∧
      t.reg (rd + 1) = writtenTo (rd + 1) w ∧ ChangesOnly [rd, rd + 1] (s.pc + 1) s t := by
  refine ⟨_, finishWithPair_eq rd v w s, ?_, ?_, ChangesOnly.of_setPair s rd v w _⟩
  · rw [State.setPc_reg, State.reg_setReg_ne _ (secondReg_ne rd).symm, reg_setReg_writtenTo]
  · rw [State.setPc_reg, ← secondReg, reg_setReg_writtenTo]

section
variable (rd rs1 rs2 : RegIdx) (s : State)

theorem exec_mul : exec (.mul rd rs1 rs2) s =
    finishWithPair rd (lowHalf (unsignedProduct (s.reg rs1) (s.reg rs2)))
      (highHalf (unsignedProduct (s.reg rs1) (s.reg rs2))) s := rfl
theorem exec_muls : exec (.muls rd rs1 rs2) s =
    finishWithPair rd (lowHalf (signedProduct (s.reg rs1) (s.reg rs2)))
      (highHalf (signedProduct (s.reg rs1) (s.reg rs2))) s := rfl
theorem exec_div : exec (.div rd rs1 rs2) s =
    finishDivide rd (unsignedDivide (s.reg rs1) (s.reg rs2)) s := rfl
theorem exec_divs : exec (.divs rd rs1 rs2) s =
    finishDivide rd (signedDivide (s.reg rs1) (s.reg rs2)) s := rfl
theorem exec_divq_unsigned (h : shSgn s.r15 = false) : exec (.divq rd rs1 rs2) s =
    finishQuotient rd (unsignedDivide (s.reg rs1) (s.reg rs2)) s := if_neg (by simp [h])
theorem exec_divq_signed (h : shSgn s.r15 = true) : exec (.divq rd rs1 rs2) s =
    finishQuotient rd (signedDivide (s.reg rs1) (s.reg rs2)) s := if_pos h

theorem finishDivide_result (q r : Word) :
    finishDivide rd (.result q r) s = finishWithPair rd q r s := rfl
theorem finishQuotient_result (q r : Word) :
    finishQuotient rd (.result q r) s = finishWith rd q s := rfl

end

/-! ### Products -/

/-- Settles O38: rd receives the low half (`MUL_RD_HALF`, log 11). -/
theorem multiplyUnsigned : Obligations.MultiplyUnsigned := by
  intro s rd rs1 rs2 hsgn hmull
  refine ⟨decode_mul rd rs1 rs2 hmull hsgn, ?_⟩
  have hlow (p : Nat) : BitVec.ofNat 16 p = BitVec.ofNat 16 (p % 65536) :=
    BitVec.eq_of_toNat_eq (by simp)
  rw [exec_mul, lowHalf_unsignedProduct, highHalf_unsignedProduct, hlow (_ * _)]
  exact finishWithPair_frame rd _ _ s

/-- Settles O39. -/
theorem multiplySigned : Obligations.MultiplySigned := by
  intro s rd rs1 rs2 hsgn hmull
  refine ⟨decode_muls rd rs1 rs2 hmull hsgn, ?_⟩
  rw [exec_muls, lowHalf_signedProduct, highHalf_signedProduct]
  exact finishWithPair_frame rd _ _ s

/-! ### Signed quotients and remainders fit 16 bits where a result is defined -/

/-- The quotient rounded toward zero leaves the 16-bit range only for -32768 / -1. -/
theorem tdiv_bounds {a b : Int} (hlow : -32768 ≤ a) (hhigh : a ≤ 32767) (hb : b ≠ 0)
    (ho : ¬(a = -32768 ∧ b = -1)) : -32768 ≤ a.tdiv b ∧ a.tdiv b ≤ 32767 := by
  by_cases hone : b = 1
  · subst hone; rw [Int.tdiv_one]; exact ⟨hlow, hhigh⟩
  by_cases hneg : b = -1
  · subst hneg; rw [Int.tdiv_neg, Int.tdiv_one]; omega
  · have habs : (a.tdiv b).natAbs = a.natAbs / b.natAbs := Int.natAbs_tdiv a b
    have hhalf : a.natAbs / b.natAbs ≤ a.natAbs / 2 := Nat.div_le_div_left (by omega) (by decide)
    omega

/-- The remainder is smaller than the divisor in absolute value. -/
theorem natAbs_tmod_lt (a : Int) {b : Int} (hb : b ≠ 0) : (a.tmod b).natAbs < b.natAbs := by
  rw [Int.natAbs_tmod]
  exact Nat.mod_lt _ (Int.natAbs_pos.2 hb)

/-- The remainder of a dividend not above 0 is not above 0. -/
theorem tmod_nonpos {a : Int} (b : Int) (ha : a ≤ 0) : a.tmod b ≤ 0 := by
  have h := Int.tmod_nonneg b (Int.neg_nonneg_of_nonpos ha)
  rw [Int.neg_tmod] at h
  omega

/-- An integer in the 16-bit range is the signed reading of its word. -/
theorem toInt_ofInt16 {n : Int} (hlow : -32768 ≤ n) (hhigh : n ≤ 32767) :
    (BitVec.ofInt 16 n).toInt = n :=
  BitVec.toInt_ofInt_eq_self (by decide) (by simpa using hlow) (by simpa using Int.lt_add_one_of_le hhigh)

/-- A signed division with a divisor not 0, -32768 / -1 excepted, has a result: the quotient rounded toward
zero and the remainder that goes with it (R176, R179). -/
theorem signedDivide_result {a b : Word} (hb : b ≠ 0) (ho : ¬(a = 0x8000#16 ∧ b = 0xFFFF#16)) :
    ∃ q r, signedDivide a b = .result q r ∧ q.toInt = a.toInt.tdiv b.toInt ∧
      r.toInt = a.toInt.tmod b.toInt := by
  have hb' : b.toInt ≠ 0 := fun h => hb (BitVec.eq_of_toInt_eq h)
  have ho' : ¬(a.toInt = -32768 ∧ b.toInt = -1) := fun ⟨ha, hb⟩ =>
    ho ⟨BitVec.eq_of_toInt_eq ha, BitVec.eq_of_toInt_eq hb⟩
  have ha := a.le_toInt
  have ha' := a.toInt_lt
  have hbl := b.le_toInt
  have hbh := b.toInt_lt
  obtain ⟨hql, hqh⟩ := tdiv_bounds (by omega) (by omega) hb' ho'
  have hmod := natAbs_tmod_lt a.toInt hb'
  refine ⟨_, _, signedDivide_some hb ho', toInt_ofInt16 hql hqh, ?_⟩
  rw [Int.mul_comm, ← Int.tmod_def]
  exact toInt_ofInt16 (by omega) (by omega)

/-! ### Quotients -/

/-- Settles O41. -/
theorem divideUnsigned : Obligations.DivideUnsigned := by
  intro s rd rs1 rs2 hsgn hdivq hb
  refine ⟨decode_div rd rs1 rs2 hdivq hsgn, ?_⟩
  rw [exec_div, unsignedDivide_some hb, finishDivide_result]
  exact finishWithPair_frame rd _ _ s

/-- Settles O42: the quotient and the remainder make up the dividend. -/
theorem divideSigned : Obligations.DivideSigned := by
  intro s rd rs1 rs2 hsgn hdivq hb ho
  refine ⟨decode_divs rd rs1 rs2 hdivq hsgn, ?_⟩
  obtain ⟨q, r, hdiv, hq, hr⟩ := signedDivide_result hb ho
  obtain ⟨t, ht, hregq, hregr, hframe⟩ := finishWithPair_frame rd q r s
  refine ⟨t, q, r, ?_, hregq, hregr, hq, ?_, hframe⟩
  · rw [exec_divs, hdiv, finishDivide_result, ht]
  · rw [hq, hr, Int.tdiv_mul_add_tmod]

/-- Settles O43: the quotient alone is written, of the division that R15[12] chooses. -/
theorem divideQuotientOnly : Obligations.DivideQuotientOnly := by
  intro s rd rs1 rs2 hdivq hb
  refine ⟨decode_divq rd rs1 rs2 hdivq, fun hsgn => ?_, fun hsgn ho => ?_⟩
  · rw [exec_divq_unsigned rd rs1 rs2 s hsgn, unsignedDivide_some hb, finishQuotient_result]
    exact finishWith_frame rd _ s
  · obtain ⟨q, r, hdiv, hq, -⟩ := signedDivide_result hb ho
    rw [exec_divq_signed rd rs1 rs2 s hsgn, hdiv, finishQuotient_result, ← hq, BitVec.ofInt_toInt]
    exact finishWith_frame rd _ s

/-- An instruction that is no stop, transfer, compare, store or IO access changes only its destinations and
moves pc to the next instruction, whatever values it writes. -/
theorem exec_changesOnly {i : Instr} {s : State} (hstop : stopsAt i s = false)
    (hct : isControlTransfer i = false) (hcmp : isCompare i = false) (hstore : storeAddress s i = none)
    (hio : accessesIo i = false) :
    ∃ t, exec i s = .next t ∧ ChangesOnly (destinations i) (s.pc + 1) s t := by
  obtain ⟨t, ht, hcomp⟩ := exec_completes hstop
  exact ⟨t, ht,
    { regs := fun r hr => hcomp.reg hr fun _ => hcmp
      pc := hcomp.pc hct
      memory := fun a => hcomp.wordAt (by rw [hstore]; nofun)
      io := hcomp.sameIo hio }⟩

/-- Settles O44: a division is none of the instructions `exec_changesOnly` excepts, with or without a
defined result. -/
theorem divisionWithoutResultCompletes : Obligations.DivisionWithoutResultCompletes := by
  intro s rd rs1 rs2
  have hdiv := exec_changesOnly (i := .div rd rs1 rs2) (s := s) rfl rfl rfl rfl rfl
  have hdivs := exec_changesOnly (i := .divs rd rs1 rs2) (s := s) rfl rfl rfl rfl rfl
  have hdivq := exec_changesOnly (i := .divq rd rs1 rs2) (s := s) rfl rfl rfl rfl rfl
  exact ⟨fun _ => ⟨hdiv, hdivs, hdivq⟩, fun _ _ => ⟨hdivs, fun _ => hdivq⟩⟩

/-- Settles O45: with both destinations general registers, the registers hold the quotient and the
remainder themselves, and the laws are those of `/`, `%`, `tdiv` and `tmod`. -/
theorem divisionLaws : Obligations.DivisionLaws := by
  intro s rd rs1 rs2 h0 h15 hb
  have hsecond : rd + 1 ≠ 0 := by bv_omega
  have hbpos : 0 < (s.reg rs2).toNat := by bv_omega
  constructor
  · obtain ⟨t, ht, hregq, hregr, -⟩ := finishWithPair_frame rd
      (BitVec.ofNat 16 ((s.reg rs1).toNat / (s.reg rs2).toNat))
      (BitVec.ofNat 16 ((s.reg rs1).toNat % (s.reg rs2).toNat)) s
    have hq : (t.reg rd).toNat = (s.reg rs1).toNat / (s.reg rs2).toNat := by
      rw [hregq, writtenTo_of_ne h0, BitVec.toNat_ofNat]
      exact Nat.mod_eq_of_lt (Nat.lt_of_le_of_lt (Nat.div_le_self _ _) (s.reg rs1).isLt)
    have hr : (t.reg (rd + 1)).toNat = (s.reg rs1).toNat % (s.reg rs2).toNat := by
      rw [hregr, writtenTo_of_ne hsecond, BitVec.toNat_ofNat]
      exact Nat.mod_eq_of_lt (Nat.lt_of_le_of_lt (Nat.mod_le _ _) (s.reg rs1).isLt)
    refine ⟨t, ?_, ?_, ?_⟩
    · rw [exec_div, unsignedDivide_some hb, finishDivide_result, ht]
    · rw [hq, hr, Nat.mul_comm, Nat.div_add_mod]
    · rw [hr]
      exact Nat.mod_lt _ hbpos
  · intro ho
    obtain ⟨q, r, hdiv, hq, hr⟩ := signedDivide_result hb ho
    obtain ⟨t, ht, hregq, hregr, -⟩ := finishWithPair_frame rd q r s
    rw [writtenTo_of_ne h0] at hregq
    rw [writtenTo_of_ne hsecond] at hregr
    have hb' : (s.reg rs2).toInt ≠ 0 := fun h => hb (BitVec.eq_of_toInt_eq h)
    refine ⟨t, ?_, ?_⟩
    · rw [exec_divs, hdiv, finishDivide_result, ht]
    · rw [hregq, hregr, hq, hr]
      exact ⟨(Int.tdiv_mul_add_tmod _ _).symm, natAbs_tmod_lt _ hb', Int.tmod_nonneg _,
        tmod_nonpos _⟩

end Sys2Proof.Machine

/-! ## Loads, stores and IO (spec/41_data_transfer.md R110 to R114) -/

namespace Sys2Proof.Machine

/-! ### The meanings by case -/

section
variable {s : State} {rd rs1 : RegIdx}

theorem exec_ldr_of_some {v : Word} (h : s.wordAt (s.reg rs1) = some v) :
    exec (.ldr rd rs1) s = finishWith rd v s := by
  rw [exec_ldr, h]

theorem exec_ldr_of_none (h : s.wordAt (s.reg rs1) = none) :
    exec (.ldr rd rs1) s = .fault (.unwrittenMemory s.pc (s.reg rs1)) := by
  rw [exec_ldr, h]

theorem exec_ldrIo_answered (h : s.ioDeviceAt (s.reg rs1) ≠ some .silent) :
    exec (.ldrIo rd rs1) s = .next
      (((s.ioReceive (s.reg rs1)).2.setReg rd (s.ioReceive (s.reg rs1)).1).setPc (s.pc + 1)) :=
  (execLdrIo_eq rd rs1 s).trans (if_pos (State.ioAnswered_iff.2 h))

theorem exec_ldrIo_silent (h : s.ioDeviceAt (s.reg rs1) = some .silent) :
    exec (.ldrIo rd rs1) s = .fault (.ioUnanswered s.pc (s.reg rs1)) :=
  (execLdrIo_eq rd rs1 s).trans (if_neg (Bool.eq_false_iff.1 (State.ioAnswered_eq_false.2 h)))

theorem exec_strIo_answered (h : s.ioDeviceAt (s.reg rd) ≠ some .silent) :
    exec (.strIo rd rs1) s = .next ((s.ioSend (s.reg rd) (s.reg rs1)).setPc (s.pc + 1)) :=
  (execStrIo_eq rd rs1 s).trans (if_pos (State.ioAnswered_iff.2 h))

theorem exec_strIo_silent (h : s.ioDeviceAt (s.reg rd) = some .silent) :
    exec (.strIo rd rs1) s = .fault (.ioUnanswered s.pc (s.reg rd)) :=
  (execStrIo_eq rd rs1 s).trans (if_neg (Bool.eq_false_iff.1 (State.ioAnswered_eq_false.2 h)))

end

/-- An answer that is lined up is the one an IO read returns. -/
theorem ioReceive_fst_of_head {s : State} {v : Word} (h : s.ioIn.head? = some v) (a : Word) :
    (s.ioReceive a).1 = v := by
  obtain ⟨rest, hrest⟩ := List.head?_eq_some_iff.1 h
  rw [State.ioReceive_of_cons hrest]

/-! ### The obligations -/

/-- Settles O8. -/
theorem loadFromMemory : Obligations.LoadFromMemory := by
  intro s rd rs1 u
  refine ⟨decode_ldr s.r15 rd rs1 u, fun v hv => ?_, exec_ldr_of_none⟩
  rw [exec_ldr_of_some hv]
  exact finishWith_frame rd v s

/-- Settles O9: the state after an answered read is the one that received, with `rd` written. -/
theorem loadFromIo : Obligations.LoadFromIo := by
  intro s rd rs1 u
  refine ⟨decode_ldrIo s.r15 rd rs1 u, fun h => ?_, exec_ldrIo_silent⟩
  refine ⟨_, (s.ioReceive (s.reg rs1)).1, exec_ldrIo_answered h, ?_, fun r hr => ?_, rfl, fun a => ?_,
    ?_, ?_, ?_, fun a ha => ioReceive_fst_of_head ha _⟩
  · rw [State.setPc_reg, reg_setReg_writtenTo]
  · rw [State.setPc_reg, State.reg_setReg_ne _ hr, State.ioReceive_reg]
  · rw [State.setPc_wordAt, State.setReg_wordAt, State.ioReceive_wordAt]
  · rw [State.setPc_ioLog, State.setReg_ioLog, State.ioReceive_ioLog]
  · rw [State.setPc_ioIn, State.setReg_ioIn, State.ioReceive_ioIn]
  · rw [State.setPc_ioMap, State.setReg_ioMap, State.ioReceive_ioMap]

/-- Settles O10: the state after is the one with the word put, and a put word is read at its address
alone. -/
theorem storeToMemory : Obligations.StoreToMemory := by
  intro s rd rs1 u
  refine ⟨decode_str s.r15 rd rs1 u, _, exec_str rd rs1 s, fun a ha => ?_, rfl, fun _ => rfl, rfl,
    rfl, rfl, rfl⟩
  cases ha
  exact ⟨State.wordAt_putWord_same s _ _, fun b hb => State.wordAt_putWord_ne s hb _⟩

/-- Settles O11. -/
theorem storeToIo : Obligations.StoreToIo := by
  intro s rd rs1 u
  exact ⟨decode_strIo s.r15 rd rs1 u,
    fun h => ⟨_, exec_strIo_answered h, rfl, rfl, rfl, fun _ => rfl, rfl, fun _ => rfl⟩,
    exec_strIo_silent⟩

/-! ### A step is the decoded instruction -/

/-- The fetch answers the word at pc, if there is one. -/
theorem fetch_eq_ok {s : State} {w : Word} : s.fetch = .ok w ↔ s.wordAt s.pc = some w := State.memRead_ok

theorem step_of_fetch {s : State} {w : Word} {i : Instr} (hw : s.fetch = .ok w)
    (hi : decode s.r15 w = .ok i) : step s = exec i s := by
  rw [step_eq, runInstruction, hw]
  dsimp only
  rw [hi]

theorem step_of_unwritten {s : State} (h : s.wordAt s.pc = none) :
    step s = .fault (.unwrittenMemory s.pc s.pc) := by
  have hf : s.fetch = .error (.unwrittenMemory s.pc s.pc) := by
    rw [State.fetch, State.memRead_eq, h]
  rw [step_eq, runInstruction, hf]
  rfl

/-- Settles O49. -/
theorem stepRunsTheDecodedInstruction : Obligations.StepRunsTheDecodedInstruction :=
  ⟨fun _ _ _ hw hi => step_of_fetch (fetch_eq_ok.2 hw) hi, fun _ => step_of_unwritten⟩

/-- Settles O12: the word put at pc + 1 is the one the next fetch answers. -/
theorem storeIsSeenByTheNextFetch : Obligations.StoreIsSeenByTheNextFetch := by
  intro s rd rs1 haddr
  have hfetch : ((s.putWord (s.reg rd) (s.reg rs1)).setPc (s.pc + 1)).fetch = .ok (s.reg rs1) := by
    rw [fetch_eq_ok, State.setPc_pc, State.setPc_wordAt, ← haddr, State.wordAt_putWord_same]
  exact ⟨_, exec_str rd rs1 s, hfetch, fun i hi => step_of_fetch hfetch hi⟩

/-! ## Jumps and branches (spec/42_control_flow.md R120 to R123) -/

/-- A jump that links completes: `rd` holds the link, pc is the target, the rest is kept. -/
theorem finishAt_link_frame (rd : RegIdx) (v p : Word) (s : State) :
    ∃ t, finishAt p (s.setReg rd v) = .next t ∧ t.reg rd = writtenTo rd v ∧ ChangesOnly [rd] p s t := by
  refine ⟨_, finishAt_eq p _, ?_, ChangesOnly.of_setReg s rd v p⟩
  rw [State.setPc_reg, reg_setReg_writtenTo]

section
variable (rd rs1 : RegIdx) (imm6 : BitVec 6) (s : State)

theorem exec_jmrS0 : exec (.jmrS0 rd rs1) s = finishAt (s.pc + s.reg rs1) s := rfl
theorem exec_jmrS1 : exec (.jmrS1 rd rs1) s =
    finishAt (s.pc + s.reg rs1) (s.setReg rd (s.pc + 1)) := rfl
theorem exec_jmi : exec (.jmi rd imm6) s =
    finishAt (s.pc + imm6.signExtend 16) (s.setReg rd (s.pc + 1)) := rfl

end

/-- Settles O13: the offset is the register's value before the link is written. -/
theorem jumpRegistered : Obligations.JumpRegistered := by
  intro s rd rs1 u
  refine ⟨decode_jmrS0 s.r15 rd rs1 u, decode_jmrS1 s.r15 rd rs1 u, ?_, ?_⟩
  · exact ⟨_, exec_jmrS0 rd rs1 s, ChangesOnly.of_setPc s _⟩
  · rw [exec_jmrS1]
    exact finishAt_link_frame rd _ _ s

/-- Settles O14. -/
theorem jumpImmediate : Obligations.JumpImmediate := by
  intro s rd imm6
  refine ⟨decode_jmi s.r15 rd imm6, ?_⟩
  rw [exec_jmi]
  exact finishAt_link_frame rd _ _ s

/-! ### The condition codes -/

/-- FIB[4:3] are not looked at (R87). -/
theorem condOfFib_append (hi : BitVec 2) (code : BitVec 3) :
    condOfFib (hi ++ code) = condOfFib (0#2 ++ code) := by
  unfold condOfFib
  rw [extract_append_low hi code (by decide), extract_append_low 0#2 code (by decide)]

section
variable {fib : BitVec 5} {target : Word} {s : State}

/-- A branch on a defined condition jumps where what the condition says holds, else falls through. -/
theorem branchTo_of_some {c : Cond} {P : Prop} [Decidable P] (hfib : condOfFib fib = some c)
    (hP : condHolds s.r15 c = true ↔ P) :
    branchTo fib target s = .next (s.setPc (if P then target else s.pc + 1)) := by
  rw [branchTo_eq, hfib]
  simp only [hP]

theorem branchTo_of_none (hfib : condOfFib fib = none) :
    branchTo fib target s = .fault (.reservedCondition s.pc) := by
  rw [branchTo_eq, hfib]

end

/-- The six codes over G and E, for any target: the common part of BRC and BRR (R87; log 18). -/
theorem branchTo_codes (s : State) (hi : BitVec 2) (target : Word) :
    let g := s.r15.getLsbD 5
    let e := s.r15.getLsbD 4
    branchTo (hi ++ 0b000#3) target s = .next (s.setPc (if e = true then target else s.pc + 1)) ∧
    branchTo (hi ++ 0b001#3) target s =
      .next (s.setPc (if g = false ∧ e = false then target else s.pc + 1)) ∧
    branchTo (hi ++ 0b010#3) target s = .next (s.setPc (if g = true then target else s.pc + 1)) ∧
    branchTo (hi ++ 0b011#3) target s =
      .next (s.setPc (if g = true ∨ e = true then target else s.pc + 1)) ∧
    branchTo (hi ++ 0b100#3) target s =
      .next (s.setPc (if (g = false ∧ e = false) ∨ e = true then target else s.pc + 1)) ∧
    branchTo (hi ++ 0b101#3) target s =
      .next (s.setPc (if e = false then target else s.pc + 1)) := by
  have code (c : BitVec 3) := condOfFib_append hi c
  exact ⟨branchTo_of_some (c := .eq) (code _) Iff.rfl,
    branchTo_of_some (c := .lt) (code _) (by simp [condHolds, flagG, flagE]),
    branchTo_of_some (c := .gt) (code _) Iff.rfl,
    branchTo_of_some (c := .ge) (code _) (by simp [condHolds, flagG, flagE]),
    branchTo_of_some (c := .le) (code _) (by simp [condHolds, flagG, flagE]),
    branchTo_of_some (c := .ne) (code _) (by simp [condHolds, flagE])⟩

/-- Settles O15: BRC's target is x[rd]. -/
theorem branchAbsolute : Obligations.BranchAbsolute :=
  fun s hi rd => branchTo_codes s hi (s.reg rd)

/-- Settles O16: BRR's target is pc + x[rd]. -/
theorem branchRelative : Obligations.BranchRelative :=
  fun s hi rd => branchTo_codes s hi (s.pc + s.reg rd)

/-- Settles O17: the two codes that name no condition. -/
theorem reservedConditionFaults : Obligations.ReservedConditionFaults := by
  intro s hi rd
  have h110 : condOfFib (hi ++ 0b110#3) = none := condOfFib_append hi _
  have h111 : condOfFib (hi ++ 0b111#3) = none := condOfFib_append hi _
  exact ⟨branchTo_of_none h110, branchTo_of_none h111, branchTo_of_none h110, branchTo_of_none h111⟩

/-! ## Compares (spec/42_control_flow.md R124 to R128) -/

/-- A compare's end completes and sets G and E to what it found. -/
theorem finish_setsFlags (s : State) (greater equal : Prop) [Decidable greater] [Decidable equal] :
    ∃ t, finish (s.setR15 (withCompareFlags s.r15 (decide greater) (decide equal))) = .next t ∧
      SetsFlags greater equal s t := by
  refine ⟨_, finish_eq _, ?_⟩
  simpa only [decide_eq_true_eq, State.setR15_pc] using SetsFlags.of_setR15 s (decide greater) (decide equal)

section
variable (s : State) (rs1 rd : RegIdx) (imm5 : BitVec 5)

theorem exec_cmr_setsFlags : ∃ t, exec (.cmr rs1 rd) s = .next t ∧
    SetsFlags ((s.reg rd).toNat < (s.reg rs1).toNat) (s.reg rs1 = s.reg rd) s t :=
  finish_setsFlags s _ _

theorem exec_cmrs_setsFlags : ∃ t, exec (.cmrs rs1 rd) s = .next t ∧
    SetsFlags ((s.reg rd).toInt < (s.reg rs1).toInt) ((s.reg rs1).toInt = (s.reg rd).toInt) s t :=
  finish_setsFlags s _ _

theorem exec_cmi_setsFlags : ∃ t, exec (.cmi imm5 rd) s = .next t ∧
    SetsFlags ((s.reg rd).toNat < (imm5.signExtend 16).toNat) (imm5.signExtend 16 = s.reg rd) s t :=
  finish_setsFlags s _ _

/-- The sign-extended immediate has the immediate's own signed value. -/
theorem exec_cmis_setsFlags : ∃ t, exec (.cmis imm5 rd) s = .next t ∧
    SetsFlags ((s.reg rd).toInt < imm5.toInt) (imm5.toInt = (s.reg rd).toInt) s t := by
  rw [← toInt_sext16 (by decide : 5 ≤ 16) imm5]
  exact finish_setsFlags s _ _

end

/-- Settles O18: words are equal exactly when their signed readings are. -/
theorem compareRegisters : Obligations.CompareRegisters := by
  refine ⟨fun s rs1 rd u hcmps => ⟨decode_cmr rd rs1 hcmps u, exec_cmr_setsFlags s rs1 rd⟩,
    fun s rs1 rd u hcmps => ⟨decode_cmrs rd rs1 hcmps u, ?_⟩⟩
  simpa only [BitVec.toInt_inj] using exec_cmrs_setsFlags s rs1 rd

/-- Settles O19. -/
theorem compareImmediate : Obligations.CompareImmediate :=
  ⟨fun s imm5 rd hcmps => ⟨decode_cmi rd hcmps imm5, exec_cmi_setsFlags s rd imm5⟩,
    fun s imm5 rd hcmps => ⟨decode_cmis rd hcmps imm5, exec_cmis_setsFlags s rd imm5⟩⟩

/-- With G the "greater" and E the "equal" of one linear order, the six conditions are its six relations, and
G and E exclude each other. -/
theorem conditions_of_flags {α : Type} [LinearOrder α] {a b : α} {r15 : Word}
    (hg : flagG r15 = true ↔ b < a) (he : flagE r15 = true ↔ a = b) :
    condHolds r15 .eq = decide (a = b) ∧ condHolds r15 .ne = decide (a ≠ b) ∧
      condHolds r15 .lt = decide (a < b) ∧ condHolds r15 .gt = decide (b < a) ∧
      condHolds r15 .le = decide (a ≤ b) ∧ condHolds r15 .ge = decide (b ≤ a) ∧
      (flagG r15 && flagE r15) = false := by
  have hG : flagG r15 = decide (b < a) := Bool.eq_iff_iff.2 (hg.trans decide_eq_true_iff.symm)
  have hE : flagE r15 = decide (a = b) := Bool.eq_iff_iff.2 (he.trans decide_eq_true_iff.symm)
  simp only [condHolds, hG, hE]
  rcases lt_trichotomy a b with h | h | h
  · simp [h, h.ne, h.le, h.not_gt, h.not_ge]
  · simp [h]
  · simp [h, h.ne', h.le, h.not_gt, h.not_ge]

/-- Settles O20: each compare leaves the two flags of its own order. -/
theorem conditionsAfterCompareAreTheRelations : Obligations.ConditionsAfterCompareAreTheRelations := by
  intro s rs1 rd imm5
  obtain ⟨t, ht, hft⟩ := exec_cmr_setsFlags s rs1 rd
  obtain ⟨u, hu, hfu⟩ := exec_cmrs_setsFlags s rs1 rd
  obtain ⟨v, hv, hfv⟩ := exec_cmi_setsFlags s rd imm5
  obtain ⟨w, hw, hfw⟩ := exec_cmis_setsFlags s rd imm5
  exact ⟨⟨t, ht, conditions_of_flags hft.g (hft.e.trans BitVec.toNat_inj.symm)⟩,
    ⟨u, hu, conditions_of_flags hfu.g hfu.e⟩,
    ⟨v, hv, conditions_of_flags hfv.g (hfv.e.trans BitVec.toNat_inj.symm)⟩,
    ⟨w, hw, conditions_of_flags hfw.g hfw.e⟩⟩

/-! ## R0 (spec/10_state.md R21) -/

/-- With destination R0 the two-result end writes R1 alone. -/
theorem finishWithPair_zero (v w : Word) (s : State) :
    ∃ t, finishWithPair 0 v w s = .next t ∧ t.reg 1 = w ∧ ∀ r, r ≠ 1 → t.reg r = s.reg r := by
  obtain ⟨t, ht, -, hsecond, hframe⟩ := finishWithPair_frame 0 v w s
  refine ⟨t, ht, hsecond, fun r hr => ?_⟩
  by_cases h0 : r = 0
  · subst h0; rfl
  · exact hframe.regs r (by simpa using ⟨h0, hr⟩)

/-- Settles O7: each instruction's own equation at `rd = 0`, where the write of `rd` is no write. -/
theorem registerZeroIsConstant : Obligations.RegisterZeroIsConstant := by
  refine ⟨State.reg_zero, State.setReg_zero, fun s rs1 v hv => ?_, fun s rs1 f hf => ?_,
    fun s rs1 h => ?_, fun s rs1 => exec_ldrIo_silent, fun s rs1 => exec_jmrS1 0 rs1 s,
    fun s imm6 => exec_jmi 0 imm6 s, fun s rs1 rs2 => ?_, fun s rs1 rs2 hb => ?_⟩
  · rw [exec_ldr_of_some (State.memRead_ok.1 hv), finishWith_eq]
    rfl
  · change execLdr 0 rs1 s = _
    rw [execLdr, hf]
    rfl
  · refine ⟨_, (s.ioReceive (s.reg rs1)).1, exec_ldrIo_answered h, ?_, fun r => ?_⟩
    · rw [State.setPc_ioLog, State.setReg_ioLog, State.ioReceive_ioLog]
    · exact State.ioReceive_reg s _ r
  · rw [exec_mul, highHalf_unsignedProduct]
    exact finishWithPair_zero _ _ s
  · rw [exec_div, unsignedDivide_some hb, finishDivide_result]
    exact finishWithPair_zero _ _ s

/-- Settles O6. -/
theorem resetStateValues : Obligations.ResetStateValues := by
  refine ⟨rfl, rfl, fun r => ?_, fun _ => rfl, rfl⟩
  unfold State.reg
  split
  · rfl
  · split
    · simp [State.reset]
    · rfl

end Sys2Proof.Machine

/-! ## The end of a run (spec/70_reset_and_hazards.md R234) -/

namespace Sys2Proof.Machine

/-- The word 0x2C00 is `JMI r0 0` under every R15. -/
theorem decode_endWord (r15 : Word) : decode r15 0x2C00#16 = .ok (.jmi 0 0) := decode_jmi r15 0 0

/-- A jump to itself that links to R0 leaves the whole state. -/
theorem exec_jmi_self (s : State) : exec (.jmi 0 0) s = .next s := by
  have hpc : s.pc + (0 : BitVec 6).signExtend 16 = s.pc := by simp
  rw [exec_jmi, finishAt_eq, hpc]
  rfl

theorem step_of_ended {s : State} (h : Ended s) : step s = .next s := by
  rw [step_of_fetch h (decode_endWord s.r15), exec_jmi_self]

/-- A run stays for ever at a state that steps to itself. -/
theorem run_of_step_self {M : Host.Core} {s : M.State} (h : M.step s = .next s) (k : Nat) :
    M.run k s = .next s := by
  induction k with
  | zero => rfl
  | succ k ih =>
    rw [Host.Core.run, h]
    exact ih

/-- Settles O59. -/
theorem endedRunStaysAsItIs : Obligations.EndedRunStaysAsItIs :=
  fun _ h => run_of_step_self (step_of_ended h)

/-! ## The unassigned bits of R15 (spec/10_state.md R25 (d), R27)

`SameButUnassigned` is a simulation relation: the operations of the machine keep it, what instructions read of
the state is the same on both sides, R15 as an operand excepted, and so every instruction keeps it. -/

section
variable {t u : State} (h : SameButUnassigned t u)
include h

/-! ### What is the same on both sides -/

theorem SameButUnassigned.reg_eq {r : RegIdx} (hr : 15 ∉ [r]) : u.reg r = t.reg r := by
  have hne : r.toNat ≠ 15 := fun h15 => hr (List.mem_singleton.2 (BitVec.eq_of_toNat_eq h15.symm))
  unfold State.reg
  split
  · rfl
  · rw [dif_pos (by omega), dif_pos (by omega)]
    simp only [h.gpr]

theorem SameButUnassigned.reg_pair_eq {r q : RegIdx} (hrq : 15 ∉ [r, q]) :
    u.reg r = t.reg r ∧ u.reg q = t.reg q :=
  ⟨h.reg_eq fun hr => hrq (List.mem_cons.2 (.inl (List.mem_singleton.1 hr))),
    h.reg_eq fun hq => hrq (List.mem_cons_of_mem r hq)⟩

theorem SameButUnassigned.wordAt_eq (a : Word) : u.wordAt a = t.wordAt a := by
  rw [State.wordAt, State.wordAt, h.mem]

theorem SameButUnassigned.shSgn_eq : shSgn u.r15 = shSgn t.r15 := getLsbD_eq_of_and_eq h.r15 rfl

theorem SameButUnassigned.condHolds_eq (c : Cond) : condHolds u.r15 c = condHolds t.r15 c := by
  have hg : flagG u.r15 = flagG t.r15 := getLsbD_eq_of_and_eq h.r15 rfl
  have he : flagE u.r15 = flagE t.r15 := getLsbD_eq_of_and_eq h.r15 rfl
  cases c <;> simp only [condHolds, hg, he]

theorem SameButUnassigned.ioReceive_fst_eq (a : Word) : (u.ioReceive a).1 = (t.ioReceive a).1 := by
  cases hin : t.ioIn with
  | nil => rw [State.ioReceive_of_nil hin, State.ioReceive_of_nil (h.ioIn.trans hin), h.draws]
  | cons v rest => rw [State.ioReceive_of_cons hin, State.ioReceive_of_cons (h.ioIn.trans hin)]

/-! ### The operations keep the relation -/

theorem SameButUnassigned.setPc (p : Word) : SameButUnassigned (t.setPc p) (u.setPc p) :=
  { h with pc := rfl }

theorem SameButUnassigned.setReg (rd : RegIdx) (v : Word) :
    SameButUnassigned (t.setReg rd v) (u.setReg rd v) where
  gpr := by
    unfold State.setReg
    split
    · exact h.gpr
    · split
      · simp only [h.gpr]
      · exact h.gpr
  r15 := by
    rw [State.setReg_r15, State.setReg_r15]
    split
    · rfl
    · exact h.r15
  pc := by simpa using h.pc
  mem := by simpa using h.mem
  ioLog := by simpa using h.ioLog
  ioIn := by simpa using h.ioIn
  ioMap := by simpa using h.ioMap
  draws := by simpa using h.draws

theorem SameButUnassigned.setFlags (g e : Bool) :
    SameButUnassigned (t.setR15 (withCompareFlags t.r15 g e)) (u.setR15 (withCompareFlags u.r15 g e)) :=
  { h with
    r15 := by
      apply BitVec.eq_of_getLsbD_eq
      intro k _
      have hk := congrArg (BitVec.getLsbD · k) h.r15
      simp only [BitVec.getLsbD_and] at hk
      simp only [State.setR15_r15, BitVec.getLsbD_and, withCompareFlags_bit]
      split
      · rfl
      · split
        · rfl
        · exact hk }

theorem SameButUnassigned.putWord (a v : Word) : SameButUnassigned (t.putWord a v) (u.putWord a v) :=
  { h with mem := by simp only [State.putWord_mem, h.mem] }

theorem SameButUnassigned.ioSend (a v : Word) : SameButUnassigned (t.ioSend a v) (u.ioSend a v) :=
  { h with ioLog := by simp only [State.ioSend_ioLog, h.ioLog] }

theorem SameButUnassigned.draw_snd : SameButUnassigned t.draw.2 u.draw.2 :=
  { h with draws := by simp only [State.draw_draws, h.draws] }

theorem SameButUnassigned.ioReceive_snd (a : Word) :
    SameButUnassigned (t.ioReceive a).2 (u.ioReceive a).2 := by
  cases hin : t.ioIn with
  | nil =>
    rw [State.ioReceive_of_nil hin, State.ioReceive_of_nil (h.ioIn.trans hin)]
    exact { h with ioLog := by simp only [h.ioLog, h.draws], draws := by simp only [h.draws] }
  | cons v rest =>
    rw [State.ioReceive_of_cons hin, State.ioReceive_of_cons (h.ioIn.trans hin)]
    exact { h with ioLog := by simp only [h.ioLog], ioIn := rfl }

/-! ### The ends of instructions agree -/

theorem finishAt_agree {p p' : Word} (hp : p' = p) : OutcomesAgree (finishAt p t) (finishAt p' u) := by
  subst hp
  exact h.setPc p'

theorem finish_agree : OutcomesAgree (finish t) (finish u) :=
  finishAt_agree h (by rw [State.nextPc, State.nextPc, h.pc])

theorem finishWith_agree {rd : RegIdx} {v v' : Word} (hv : v' = v) :
    OutcomesAgree (finishWith rd v t) (finishWith rd v' u) := by
  subst hv
  exact finish_agree (h.setReg rd v')

theorem finishWithPair_agree {rd : RegIdx} {v v' w w' : Word} (hv : v' = v) (hw : w' = w) :
    OutcomesAgree (finishWithPair rd v w t) (finishWithPair rd v' w' u) := by
  subst hv hw
  exact finish_agree ((h.setReg rd v').setReg (secondReg rd) w')

/-- The free values are the same, being indexed by the same counter. -/
theorem draw_fst_eq : u.draw.1 = t.draw.1 := congrArg Config.freeWord h.draws

theorem finishDivide_agree {rd : RegIdx} {d d' : Division} (hd : d' = d) :
    OutcomesAgree (finishDivide rd d t) (finishDivide rd d' u) := by
  subst hd
  cases d' with
  | result q r => exact finishWithPair_agree h rfl rfl
  | byZero | overflow =>
    exact finishWithPair_agree h.draw_snd.draw_snd (draw_fst_eq h) (draw_fst_eq h.draw_snd)

theorem finishQuotient_agree {rd : RegIdx} {d d' : Division} (hd : d' = d) :
    OutcomesAgree (finishQuotient rd d t) (finishQuotient rd d' u) := by
  subst hd
  cases d' with
  | result q r => exact finishWith_agree h rfl
  | byZero | overflow => exact finishWith_agree h.draw_snd (draw_fst_eq h)

theorem branchTo_agree {fib : BitVec 5} {target target' : Word} (ht : target' = target) :
    OutcomesAgree (branchTo fib target t) (branchTo fib target' u) := by
  subst ht
  rw [branchTo_eq, branchTo_eq]
  cases condOfFib fib with
  | none => exact congrArg Fault.reservedCondition h.pc.symm
  | some c =>
    dsimp only
    rw [h.condHolds_eq, h.pc]
    exact h.setPc _

theorem setFlags_agree {g g' e e' : Bool} (hg : g' = g) (he : e' = e) :
    OutcomesAgree (finish (t.setR15 (withCompareFlags t.r15 g e)))
      (finish (u.setR15 (withCompareFlags u.r15 g' e'))) := by
  subst hg he
  exact finish_agree (h.setFlags g' e')

/-! ### Every instruction -/

/-- An instruction that does not read R15 as an operand takes related states to related outcomes. -/
theorem exec_agree {i : Instr} (hsrc : 15 ∉ sources i) : OutcomesAgree (exec i t) (exec i u) := by
  cases i with
  | reserved0000 | reserved0001 => exact congrArg Fault.reservedOpcode h.pc.symm
  | msiShadow _ _ => exact rfl
  | msi _ _ => exact finishWith_agree h rfl
  | ldr rd rs1 =>
    rw [exec_ldr, exec_ldr, h.reg_eq hsrc, h.wordAt_eq, h.pc]
    cases t.wordAt (t.reg rs1) with
    | none => exact rfl
    | some v => exact finishWith_agree h rfl
  | ldrIo rd rs1 =>
    change OutcomesAgree (execLdrIo rd rs1 t) (execLdrIo rd rs1 u)
    rw [execLdrIo_eq, execLdrIo_eq, h.reg_eq hsrc, State.ioAnswered_congr h.ioMap, h.pc,
      h.ioReceive_fst_eq]
    split
    · exact ((h.ioReceive_snd _).setReg rd _).setPc _
    · exact rfl
  | str rd rs1 =>
    obtain ⟨hrd, hrs1⟩ := h.reg_pair_eq hsrc
    rw [exec_str, exec_str, hrd, hrs1, h.pc]
    exact (h.putWord _ _).setPc _
  | strIo rd rs1 =>
    obtain ⟨hrd, hrs1⟩ := h.reg_pair_eq hsrc
    change OutcomesAgree (execStrIo rd rs1 t) (execStrIo rd rs1 u)
    rw [execStrIo_eq, execStrIo_eq, hrd, hrs1, State.ioAnswered_congr h.ioMap, h.pc]
    split
    · exact (h.ioSend _ _).setPc _
    · exact rfl
  | jmrS0 rd rs1 => exact finishAt_agree h (by rw [h.reg_eq hsrc, h.pc])
  | jmrS1 rd rs1 =>
    rw [exec_jmrS1, exec_jmrS1, h.reg_eq hsrc, h.pc]
    exact (h.setReg rd _).setPc _
  | jmi rd imm6 =>
    rw [exec_jmi, exec_jmi, h.pc]
    exact (h.setReg rd _).setPc _
  | anr _ _ _ | slr _ _ _ | sar _ _ _ | adr _ _ _ | sur _ _ _ | mull _ _ _ =>
    obtain ⟨h1, h2⟩ := h.reg_pair_eq hsrc
    exact finishWith_agree h (by rw [h1, h2])
  | anir _ _ _ | adir _ _ _ | suir _ _ _ | ntrOnes _ _ | ntrTwos _ _ | ani _ _ | mhi _ _ | adi _ _
  | sui _ _ | shiLogical _ _ | shiArith _ _ | ntdOnes _ | ntdTwos _ =>
    exact finishWith_agree h (by rw [h.reg_eq hsrc])
  | mul _ _ _ | muls _ _ _ =>
    obtain ⟨h1, h2⟩ := h.reg_pair_eq hsrc
    exact finishWithPair_agree h (by rw [h1, h2]) (by rw [h1, h2])
  | div _ _ _ | divs _ _ _ =>
    obtain ⟨h1, h2⟩ := h.reg_pair_eq hsrc
    exact finishDivide_agree h (by rw [h1, h2])
  | divq rd rs1 rs2 =>
    obtain ⟨h1, h2⟩ := h.reg_pair_eq hsrc
    cases hsgn : shSgn t.r15 with
    | false =>
      rw [exec_divq_unsigned _ _ _ _ hsgn, exec_divq_unsigned _ _ _ _ (h.shSgn_eq.trans hsgn)]
      exact finishQuotient_agree h (by rw [h1, h2])
    | true =>
      rw [exec_divq_signed _ _ _ _ hsgn, exec_divq_signed _ _ _ _ (h.shSgn_eq.trans hsgn)]
      exact finishQuotient_agree h (by rw [h1, h2])
  | cmr _ _ | cmrs _ _ =>
    obtain ⟨h1, h2⟩ := h.reg_pair_eq hsrc
    exact setFlags_agree h (by rw [h1, h2]) (by rw [h1, h2])
  | cmi _ _ | cmis _ _ =>
    exact setFlags_agree h (by rw [h.reg_eq hsrc]) (by rw [h.reg_eq hsrc])
  | brc _ _ => exact branchTo_agree h (h.reg_eq hsrc)
  | brr _ _ => exact branchTo_agree h (by rw [h.reg_eq hsrc, h.pc])

end

/-- Replacing R15 by a value with the same assigned bits gives a related state. -/
theorem sameButUnassigned_setR15 {s : State} {x : Word} (hx : x &&& assignedR15 = s.r15 &&& assignedR15) :
    SameButUnassigned s (s.setR15 x) :=
  ⟨rfl, hx, rfl, rfl, rfl, rfl, rfl, rfl⟩

/-- Words that agree under a mask agree under every smaller one. -/
theorem and_eq_and_of_subset {x y m n : Word} (h : x &&& m = y &&& m) (hn : m &&& n = n) :
    x &&& n = y &&& n := by
  rw [← hn, ← BitVec.and_assoc, ← BitVec.and_assoc, h]

/-- Settles O56: the shadow bits the decoder reads are assigned bits, and every instruction keeps the
relation. -/
theorem unassignedBitsInfluenceNothing : Obligations.UnassignedBitsInfluenceNothing := by
  intro s x hx
  have hshadow : x &&& 0xFC00#16 = s.r15 &&& 0xFC00#16 := and_eq_and_of_subset hx rfl
  exact ⟨fun w => decodingReadsOnlyAssignedShadowBits _ _ w hshadow,
    fun _ hsrc => exec_agree (sameButUnassigned_setR15 hx) hsrc⟩

end Sys2Proof.Machine
